-- ==== Sys2Proof/Word.lean ====
section
/-! DEFINITION. The word types of the block (00_scope.md R7, R9). -/

namespace Sys2Proof

/-- A byte: 8 bits, unsigned, bit 0 the least significant (R9). Payload bytes and PID codes are bytes. -/
abbrev Byte := BitVec 8

/-- A CAN identifier: one unsigned number of `ID_W` = 29 bits (R7, R60). -/
abbrev CanId := BitVec 29

/-- A declared payload length: `DLC_W` = 4 bits (R7). -/
abbrev Dlc := BitVec 4

/-- A time stamp: `TS_W` = 64 bits, signed (R7). -/
abbrev TimeStamp := BitVec 64

/-- An element of an UNPACK list: `SUM_W` = 9 bits (R7, R156). -/
abbrev PidElement := BitVec 9

/-- The request word `RW[105:0]` (30_encoding.md R62). -/
abbrev RequestWord := BitVec 106

end Sys2Proof
end

