-- ==== Sys2Proof/Syntax.lean ====
section
/-! DEFINITION. The frame model (a request and its payload) and the instructions: one constructor of `Instr` for each
row of spec/opcode_table.json. -/

namespace Sys2Proof

/-- The request bit `op` (10_state.md R23): `0` is DECODE, `1` is UNPACK. -/
inductive Op where
  | decode
  | unpack
  deriving DecidableEq, Repr

/-- The payload: exactly eight byte cells at offsets `0..7`, offset 0 first (00_scope.md R10, 20_memory.md R40). -/
structure Payload where
  b0 : Byte
  b1 : Byte
  b2 : Byte
  b3 : Byte
  b4 : Byte
  b5 : Byte
  b6 : Byte
  b7 : Byte
  deriving DecidableEq, Repr

/-- A request, the record of 10_state.md R23. `ts` is two's complement and is read by no rule of the block. -/
structure Request where
  op       : Op
  startPid : Byte
  ts       : TimeStamp
  id       : CanId
  dlc      : Dlc
  data     : Payload
  deriving DecidableEq, Repr

/-- The free fields of a word of format DEC (30_encoding.md R62, R67): all its bits but `op`, `id[28:3]`, the marker and
the PID code, which the row fixes. Only `dlc`, `a` and `b` can reach the result (R72); `len` is `data[0]`, `pad` is
`data[7]`. -/
structure DecFields where
  startPid : Byte
  idLow    : BitVec 3
  dlc      : Dlc
  len      : Byte
  a        : Byte
  b        : Byte
  c        : Byte
  d        : Byte
  pad      : Byte
  deriving DecidableEq, Repr

/-- The free fields of a word of format UNP (R62, R68): all its bits but `op`. `m0` to `m3` are the mask bytes at
offsets 3 to 6; only they and `startPid` can reach the result (R72). -/
structure UnpFields where
  startPid : Byte
  id       : CanId
  dlc      : Dlc
  data0    : Byte
  data1    : Byte
  data2    : Byte
  m0       : Byte
  m1       : Byte
  m2       : Byte
  m3       : Byte
  data7    : Byte
  deriving DecidableEq, Repr

/-- The causes a DECODE is rejected for (60_exceptions.md R171). They are names inside the model and appear in no
response (R173). -/
inductive RejectCause where
  /-- `REJ_ID`: the identifier lies outside `[0x7E8, 0x7EF]`. -/
  | id
  /-- `REJ_MARKER`: payload byte 1 is not `0x41`. -/
  | marker
  /-- `REJ_PID`: the registry has no entry for the code. -/
  | pid
  /-- `REJ_DLC`: under `STRICT`, `dlc` is too short for the entry. -/
  | dlc
  deriving DecidableEq, Repr

/-- One constructor for each row of spec/opcode_table.json, in its order. -/
inductive Instr where
  /-- `LOAD`, PID `0x04`: Calculated engine load (40_pid_registry.md R96). -/
  | load (f : DecFields)
  /-- `ECT`, PID `0x05`: Engine coolant temperature (40_pid_registry.md R97). -/
  | ect (f : DecFields)
  /-- `STFT1`, PID `0x06`: Short term fuel trim, bank 1 (40_pid_registry.md R98). -/
  | stft1 (f : DecFields)
  /-- `LTFT1`, PID `0x07`: Long term fuel trim, bank 1 (40_pid_registry.md R99). -/
  | ltft1 (f : DecFields)
  /-- `STFT2`, PID `0x08`: Short term fuel trim, bank 2 (40_pid_registry.md R100). -/
  | stft2 (f : DecFields)
  /-- `LTFT2`, PID `0x09`: Long term fuel trim, bank 2 (40_pid_registry.md R101). -/
  | ltft2 (f : DecFields)
  /-- `FP`, PID `0x0A`: Fuel pressure (gauge) (40_pid_registry.md R102). -/
  | fp (f : DecFields)
  /-- `MAP`, PID `0x0B`: Intake manifold absolute pressure (40_pid_registry.md R103). -/
  | map (f : DecFields)
  /-- `RPM`, PID `0x0C`: Engine speed (40_pid_registry.md R104). -/
  | rpm (f : DecFields)
  /-- `VSS`, PID `0x0D`: Vehicle speed (40_pid_registry.md R105). -/
  | vss (f : DecFields)
  /-- `IAT`, PID `0x0F`: Intake air temperature (40_pid_registry.md R106). -/
  | iat (f : DecFields)
  /-- `MAF`, PID `0x10`: Mass air flow rate (40_pid_registry.md R107). -/
  | maf (f : DecFields)
  /-- `TP`, PID `0x11`: Throttle position (40_pid_registry.md R108). -/
  | tp (f : DecFields)
  /-- `RUNTM`, PID `0x1F`: Run time since engine start (40_pid_registry.md R109). -/
  | runtm (f : DecFields)
  /-- `MILDIST`, PID `0x21`: Distance travelled with malfunction indicator lamp on (40_pid_registry.md R110). -/
  | mildist (f : DecFields)
  /-- `FLI`, PID `0x2F`: Fuel tank level input (40_pid_registry.md R111). -/
  | fli (f : DecFields)
  /-- `CLRDIST`, PID `0x31`: Distance travelled since codes cleared (40_pid_registry.md R112). -/
  | clrdist (f : DecFields)
  /-- `BARO`, PID `0x33`: Absolute barometric pressure (40_pid_registry.md R113). -/
  | baro (f : DecFields)
  /-- `CATEMP11`, PID `0x3C`: Catalyst temperature, bank 1 sensor 1 (40_pid_registry.md R114). -/
  | catemp11 (f : DecFields)
  /-- `VPWR`, PID `0x42`: Control module voltage (40_pid_registry.md R115). -/
  | vpwr (f : DecFields)
  /-- `LAMBDA`, PID `0x44`: Commanded equivalence ratio (40_pid_registry.md R116). -/
  | lambda (f : DecFields)
  /-- `AAT`, PID `0x46`: Ambient air temperature (40_pid_registry.md R117). -/
  | aat (f : DecFields)
  /-- `TACR`, PID `0x4C`: Commanded throttle actuator (40_pid_registry.md R118). -/
  | tacr (f : DecFields)
  /-- `ALCH`, PID `0x52`: Ethanol fuel percentage (40_pid_registry.md R119). -/
  | alch (f : DecFields)
  /-- `FRATE`, PID `0x5E`: Engine fuel rate (40_pid_registry.md R120). -/
  | frate (f : DecFields)
  /-- `UNPACK`: the supported-PID bitmask (42_unpack_bitmask.md R157). -/
  | unpack (f : UnpFields)
  deriving DecidableEq, Repr

end Sys2Proof
end

