-- ==== Sys2Proof/Decode.lean ====
section
/-! DEFINITION. The request word (30_encoding.md R62), the decoder from it, total and rejecting by name, and the encoder
written from the same table. -/

namespace Sys2Proof

/-! ## The fixed parameters of the encoding (00_scope.md R7) -/

/-- `ID_LO`. -/
def idLo : CanId := 0x7E8

/-- `ID_HI`. -/
def idHi : CanId := 0x7EF

/-- `id[28:3]` of every identifier in the window: `0xFD` (30_encoding.md R67). -/
def idHigh : BitVec 26 := 0xFD

/-- `MARKER`, the current-data response marker. -/
def marker : Byte := 0x41

/-! ## The layout of R62 -/

/-- `RW[105]` -/
def RequestWord.op (w : RequestWord) : Op := if w.getLsbD 105 then .unpack else .decode

/-- `RW[104:97]` -/
def RequestWord.startPid (w : RequestWord) : Byte := w.extractLsb' 97 8

/-- `RW[96:68]` -/
def RequestWord.id (w : RequestWord) : CanId := w.extractLsb' 68 29

/-- `RW[67:64]` -/
def RequestWord.dlc (w : RequestWord) : Dlc := w.extractLsb' 64 4

/-- `RW[63:0]`: `data[0]` most significant. -/
def RequestWord.data (w : RequestWord) : Payload where
  b0 := w.extractLsb' 56 8
  b1 := w.extractLsb' 48 8
  b2 := w.extractLsb' 40 8
  b3 := w.extractLsb' 32 8
  b4 := w.extractLsb' 24 8
  b5 := w.extractLsb' 16 8
  b6 := w.extractLsb' 8 8
  b7 := w.extractLsb' 0 8

/-- The bit `op` of a request. -/
def Op.bit : Op → BitVec 1
  | .decode => 0
  | .unpack => 1

/-- The 64 payload bits, `data[0]` most significant. -/
def Payload.word (d : Payload) : BitVec 64 :=
  d.b0 ++ d.b1 ++ d.b2 ++ d.b3 ++ d.b4 ++ d.b5 ++ d.b6 ++ d.b7

/-- The layout of R62, most significant field first. -/
def packWord (op : Op) (startPid : Byte) (id : CanId) (dlc : Dlc) (data : Payload) : RequestWord :=
  op.bit ++ startPid ++ id ++ dlc ++ data.word

/-- The request word of a request; `ts` has no bits in it (R62). -/
def Request.word (r : Request) : RequestWord := packWord r.op r.startPid r.id r.dlc r.data

/-- The request a word stands for. A field that is not written takes the value 0 (30_encoding.md R74), so `ts` is 0. -/
def Request.ofWord (w : RequestWord) : Request :=
  ⟨w.op, w.startPid, 0, w.id, w.dlc, w.data⟩

/-! ## The decoder -/

/-- The identifier window of 41_decode_frame.md R131, both bounds inclusive, on the whole 29-bit number. -/
def idInWindow (id : CanId) : Bool := decide (idLo.toNat ≤ id.toNat) && decide (id.toNat ≤ idHi.toNat)

/-- The row of the opcode table with PID code `p` (30_encoding.md R67), if there is one. -/
def rowOfPid (p : Byte) (f : DecFields) : Option Instr :=
  match p.toNat with
  | 0x04 => some (.load f)
  | 0x05 => some (.ect f)
  | 0x06 => some (.stft1 f)
  | 0x07 => some (.ltft1 f)
  | 0x08 => some (.stft2 f)
  | 0x09 => some (.ltft2 f)
  | 0x0A => some (.fp f)
  | 0x0B => some (.map f)
  | 0x0C => some (.rpm f)
  | 0x0D => some (.vss f)
  | 0x0F => some (.iat f)
  | 0x10 => some (.maf f)
  | 0x11 => some (.tp f)
  | 0x1F => some (.runtm f)
  | 0x21 => some (.mildist f)
  | 0x2F => some (.fli f)
  | 0x31 => some (.clrdist f)
  | 0x33 => some (.baro f)
  | 0x3C => some (.catemp11 f)
  | 0x42 => some (.vpwr f)
  | 0x44 => some (.lambda f)
  | 0x46 => some (.aat f)
  | 0x4C => some (.tacr f)
  | 0x52 => some (.alch f)
  | 0x5E => some (.frate f)
  | _ => none

/-- The free fields of a DEC word. -/
def decFields (w : RequestWord) : DecFields where
  startPid := w.startPid
  idLow := w.id.extractLsb' 0 3
  dlc := w.dlc
  len := w.data.b0
  a := w.data.b3
  b := w.data.b4
  c := w.data.b5
  d := w.data.b6
  pad := w.data.b7

/-- The free fields of a UNP word. -/
def unpFields (w : RequestWord) : UnpFields where
  startPid := w.startPid
  id := w.id
  dlc := w.dlc
  data0 := w.data.b0
  data1 := w.data.b1
  data2 := w.data.b2
  m0 := w.data.b3
  m1 := w.data.b4
  m2 := w.data.b5
  m3 := w.data.b6
  data7 := w.data.b7

/-- The decoder, total on all words (30_encoding.md R63, R65 to R68, R71): `op = 1` selects UNPACK by itself; otherwise
the identifier, the marker and the PID code are tested in that order (60_exceptions.md R172), and a word that selects no
row is rejected by the name of the test that failed. -/
def decode (w : RequestWord) : Except RejectCause Instr :=
  match w.op with
  | .unpack => .ok (.unpack (unpFields w))
  | .decode =>
    if idInWindow w.id = false then .error .id
    else if w.data.b1 ≠ marker then .error .marker
    else match rowOfPid w.data.b2 (decFields w) with
      | some i => .ok i
      | none => .error .pid

/-! ## The encoder -/

/-- The PID code and free fields of a DEC instruction; none for UNPACK. -/
def Instr.dec? : Instr → Option (Byte × DecFields)
  | .load f => some (0x04, f)
  | .ect f => some (0x05, f)
  | .stft1 f => some (0x06, f)
  | .ltft1 f => some (0x07, f)
  | .stft2 f => some (0x08, f)
  | .ltft2 f => some (0x09, f)
  | .fp f => some (0x0A, f)
  | .map f => some (0x0B, f)
  | .rpm f => some (0x0C, f)
  | .vss f => some (0x0D, f)
  | .iat f => some (0x0F, f)
  | .maf f => some (0x10, f)
  | .tp f => some (0x11, f)
  | .runtm f => some (0x1F, f)
  | .mildist f => some (0x21, f)
  | .fli f => some (0x2F, f)
  | .clrdist f => some (0x31, f)
  | .baro f => some (0x33, f)
  | .catemp11 f => some (0x3C, f)
  | .vpwr f => some (0x42, f)
  | .lambda f => some (0x44, f)
  | .aat f => some (0x46, f)
  | .tacr f => some (0x4C, f)
  | .alch f => some (0x52, f)
  | .frate f => some (0x5E, f)
  | .unpack _ => none

/-- The word of format DEC with PID code `p` and free fields `f`. -/
def encodeDec (p : Byte) (f : DecFields) : RequestWord :=
  packWord .decode f.startPid (idHigh ++ f.idLow) f.dlc ⟨f.len, marker, p, f.a, f.b, f.c, f.d, f.pad⟩

/-- The word of format UNP with free fields `f`. -/
def encodeUnp (f : UnpFields) : RequestWord :=
  packWord .unpack f.startPid f.id f.dlc ⟨f.data0, f.data1, f.data2, f.m0, f.m1, f.m2, f.m3, f.data7⟩

/-- The word of an instruction. -/
def encode : Instr → RequestWord
  | .load f => encodeDec 0x04 f
  | .ect f => encodeDec 0x05 f
  | .stft1 f => encodeDec 0x06 f
  | .ltft1 f => encodeDec 0x07 f
  | .stft2 f => encodeDec 0x08 f
  | .ltft2 f => encodeDec 0x09 f
  | .fp f => encodeDec 0x0A f
  | .map f => encodeDec 0x0B f
  | .rpm f => encodeDec 0x0C f
  | .vss f => encodeDec 0x0D f
  | .iat f => encodeDec 0x0F f
  | .maf f => encodeDec 0x10 f
  | .tp f => encodeDec 0x11 f
  | .runtm f => encodeDec 0x1F f
  | .mildist f => encodeDec 0x21 f
  | .fli f => encodeDec 0x2F f
  | .clrdist f => encodeDec 0x31 f
  | .baro f => encodeDec 0x33 f
  | .catemp11 f => encodeDec 0x3C f
  | .vpwr f => encodeDec 0x42 f
  | .lambda f => encodeDec 0x44 f
  | .aat f => encodeDec 0x46 f
  | .tacr f => encodeDec 0x4C f
  | .alch f => encodeDec 0x52 f
  | .frate f => encodeDec 0x5E f
  | .unpack f => encodeUnp f

/-! ## The rows of the opcode table as match and mask (30_encoding.md R67, R68, R75) -/

/-- `MASK_DEC`. -/
def maskDec : RequestWord := 0x201FFFFFF8000FFFF0000000000

/-- `MATCH_DEC(p) = 0x00000007E800041000000000000 + (p << 40)`. -/
def matchDec (p : Byte) : RequestWord := 0x00000007E800041000000000000 + (p.setWidth 106 <<< 40)

/-- `MASK_UNP`. -/
def maskUnp : RequestWord := 0x200000000000000000000000000

/-- `MATCH_UNP`. -/
def matchUnp : RequestWord := 0x200000000000000000000000000

/-- The PID codes of the 25 DEC rows. -/
def tablePids : List Byte :=
  [0x04, 0x05, 0x06, 0x07, 0x08, 0x09, 0x0A, 0x0B, 0x0C, 0x0D, 0x0F, 0x10, 0x11,
   0x1F, 0x21, 0x2F, 0x31, 0x33, 0x3C, 0x42, 0x44, 0x46, 0x4C, 0x52, 0x5E]

/-- The mask of an instruction's row. -/
def Instr.mask (i : Instr) : RequestWord :=
  match i.dec? with
  | some _ => maskDec
  | none => maskUnp

/-- The pattern of an instruction's row. -/
def Instr.pattern (i : Instr) : RequestWord :=
  match i.dec? with
  | some (p, _) => matchDec p
  | none => matchUnp

/-! ## The host's view of the decoder -/

/-- What the decoder reads from the word whose bits are `w`, numbered as the opcode table numbers them, which is R62's
numbering. The caller gives no bit at or above `nbits`, and a number that is no 106-bit word is no request word. -/
def decodeTableWord (_nbits w : Nat) : Option Instr :=
  if w < 2 ^ 106 then (decode (BitVec.ofNat 106 w)).toOption else none

end Sys2Proof
end

