-- ==== Sys2Proof/Config.lean ====
section
/-! DEFINITION. What an instance of the block fixes when it is built (00_scope.md R7): the form of a registry entry, the
registry, the two policies, and the values the spec leaves open. The default table itself is in Machine/Registry.lean. -/

namespace Sys2Proof

/-- How many payload bytes a decode function consumes: "`bytes`: 1 or 2" (10_state.md R21). An entry with 3 or 4 is not
admitted (90_conflicts.md C4), so it cannot be written down. -/
inductive OperandBytes where
  | one
  | two
  deriving DecidableEq, Repr

/-- A registry entry (10_state.md R21): its descriptive strings, the size of its operand, and the integer constants of
its linear formula `(MUL*raw + ADD) / DEN` (40_pid_registry.md R91). -/
structure PidDefinition where
  name  : String
  unit  : String
  bytes : OperandBytes
  mul   : Nat
  add   : Int
  den   : Nat
  deriving DecidableEq, Repr

/-- The 256 registry slots, sparse: the present slots as (code, entry), codes strictly rising (10_state.md R21). A code
that is not listed is an absent slot. -/
abbrev Registry := List (Byte × PidDefinition)

/-- The parameter `DLC_POLICY` (41_decode_frame.md R135). -/
inductive DlcPolicy where
  | lenient
  | strict
  deriving DecidableEq, Repr

/-- The parameters of one instance of the block that are OPEN in the spec (00_scope.md R7). Nothing writes them after
the block is built (10_state.md R22, R28). -/
structure Config where
  /-- The parameter `REGISTRY`. -/
  registry  : Registry
  /-- The parameter `TRIM_BANK2`, which adds the codes `0x08` and `0x09` (92_eei_decisions.md D10; log entry 4). -/
  trimBank2 : Bool
  /-- The parameter `DLC_POLICY`. -/
  dlcPolicy : DlcPolicy
  deriving DecidableEq, Repr

/-- The parameter `STR_ENC`: how a string of the registry stands on a physical port (R7, D11, U10). The spec does not
fix it, so it has no body. DESIGN CHOICE, log entry 12; safe: no value of it can be proved. -/
opaque Config.strEnc : String → List Byte

/-- FREE VALUE. What the 32-bit field `num` holds when the formula's integer does not fit it, which the spec states no
result for. DESIGN CHOICE, log entry 6; safe: no value of it can be proved. -/
opaque Config.numOutsideField : Int → BitVec 32

/-- FREE VALUE. What the 16-bit field `den` holds when the entry's `DEN` is not in `1..65535`. DESIGN CHOICE, log entry
6; safe: no value of it can be proved. -/
opaque Config.denOutsideField : Nat → BitVec 16

end Sys2Proof
end

