-- ==== Sys2Proof/Machine/Memory.lean ====
section
/-! DEFINITION. The two read-only spaces of the block (10_state.md R30): the payload space of a request and the registry
space. Nothing writes either (20_memory.md R47), so there is no write operation. -/

namespace Sys2Proof.Machine

/-- A byte-addressed space: the cells that exist, as (offset, byte). An offset that is not listed does not exist. -/
abbrev Memory := List Host.Cell

/-- The canonical form: offsets strictly rising. -/
def Memory.wf : Memory → Bool
  | [] => true
  | [_] => true
  | c :: c' :: m => decide (c.1 < c'.1) && Memory.wf (c' :: m)

/-- The byte at an offset; none where no cell exists. -/
def Memory.read (m : Memory) (k : Nat) : Option Byte :=
  match m with
  | [] => none
  | c :: m => if c.1 = k then some c.2 else Memory.read m k

/-- The payload space of a request: eight cells at offsets `0..7` (20_memory.md R40). -/
def payloadSpace (d : Payload) : Memory :=
  [(0, d.b0), (1, d.b1), (2, d.b2), (3, d.b3), (4, d.b4), (5, d.b5), (6, d.b6), (7, d.b7)]

/-- `Pay(k)`: the payload byte at offset `k`, unsigned; it never fails and does not look at `dlc` (20_memory.md R41). -/
def pay (d : Payload) (k : Fin 8) : Byte :=
  match k with
  | 0 => d.b0
  | 1 => d.b1
  | 2 => d.b2
  | 3 => d.b3
  | 4 => d.b4
  | 5 => d.b5
  | 6 => d.b6
  | 7 => d.b7

/-- The registry slot of a code: `some e` when it is present, `none` otherwise (40_pid_registry.md R90). -/
def slot (g : Registry) (p : Byte) : Option PidDefinition :=
  match g with
  | [] => none
  | c :: g => if c.1 = p then some c.2 else slot g p

end Sys2Proof.Machine
end

