-- ==== Sys2Proof/Machine/Operands.lean ====
section
/-! DEFINITION. Operand assembly (30_encoding.md R69, R70): the operand of a decode function, the 32-bit mask and its
elements, and the width of a response's integers. -/

namespace Sys2Proof.Machine

/-- How many bytes, as a number. -/
def byteCount : OperandBytes → Nat
  | .one => 1
  | .two => 2

/-- `raw`: `A` for a one-byte entry, `256*A + B` for a two-byte entry, unsigned (40_pid_registry.md R92). -/
def rawOperand (n : OperandBytes) (a b : Byte) : Nat :=
  match n with
  | .one => a.toNat
  | .two => 256 * a.toNat + b.toNat

/-- The greatest `raw` of an operand size (R92). -/
def rawMax : OperandBytes → Nat
  | .one => 255
  | .two => 65535

/-- The numerator of an entry's formula, in the integers: `MUL*raw + ADD` (R91, R94). -/
def numerator (e : PidDefinition) (raw : Nat) : Int := (e.mul : Int) * (raw : Int) + e.add

/-- KW's `decode(A, B, C, D)`: `C` and `D` are passed and no entry reads them (R92). -/
def decodeFunction (e : PidDefinition) (a b _c _d : Byte) : Int := numerator e (rawOperand e.bytes a b)

/-- The integer in the response field `num`, 32 bits two's complement (10_state.md R24). Outside the field's range the
spec states no result: a free value (log entry 6). -/
def numField (n : Int) : BitVec 32 :=
  if -2147483648 ≤ n ∧ n ≤ 2147483647 then BitVec.ofInt 32 n else Config.numOutsideField n

/-- The integer in the response field `den`, 16 bits unsigned and never 0 (R24). Outside that range the spec states no
result: a free value (log entry 6). -/
def denField (n : Nat) : BitVec 16 :=
  if 1 ≤ n ∧ n ≤ 65535 then BitVec.ofNat 16 n else Config.denOutsideField n

/-- The mask `m = Pay(3) ‖ Pay(4) ‖ Pay(5) ‖ Pay(6)`, `Pay(3)` most significant (42_unpack_bitmask.md R151). -/
def assembleMask (m0 m1 m2 m3 : Byte) : BitVec 32 := m0 ++ m1 ++ m2 ++ m3

/-- The element of KW position `i`: `start_pid + i + 1` in 9 bits (R152, R156). -/
def elementAt (start : Byte) (i : Nat) : PidElement := start.setWidth 9 + BitVec.ofNat 9 (i + 1)

/-- KW position `i` is the bit `m[31 - i]` (R152). -/
def positionSet (m : BitVec 32) (i : Nat) : Bool := m.getLsbD (31 - i)

/-- The KW positions `0..31`, rising (R157). -/
def positions : List Nat := List.range 32

/-- The list of R157: one element for each set position, in rising order. -/
def elements (start : Byte) (m : BitVec 32) : List PidElement :=
  (positions.filter (positionSet m)).map (elementAt start)

end Sys2Proof.Machine
end

