-- ==== Sys2Proof/Machine/Registry.lean ====
section
/-! DEFINITION. The default contents of the PID registry (40_pid_registry.md R95), one definition per entry. The codes,
formulas and strings other than those KW prints are the spec's general knowledge (93_implementation_defined.md G1 to G3;
log entry 3, PRESUMED, unsafe). -/

namespace Sys2Proof.Machine

/-- `LOAD`, PID `0x04` (R96). -/
def entryLoad : PidDefinition :=
  ⟨"Calculated engine load", "%", .one, 100, 0, 255⟩

/-- `ECT`, PID `0x05` (R97). -/
def entryEct : PidDefinition :=
  ⟨"Engine coolant temperature", "°C", .one, 1, -40, 1⟩

/-- `STFT1`, PID `0x06` (R98). -/
def entryStft1 : PidDefinition :=
  ⟨"Short term fuel trim, bank 1", "%", .one, 100, -12800, 128⟩

/-- `LTFT1`, PID `0x07` (R99). -/
def entryLtft1 : PidDefinition :=
  ⟨"Long term fuel trim, bank 1", "%", .one, 100, -12800, 128⟩

/-- `STFT2`, PID `0x08` (R100). -/
def entryStft2 : PidDefinition :=
  ⟨"Short term fuel trim, bank 2", "%", .one, 100, -12800, 128⟩

/-- `LTFT2`, PID `0x09` (R101). -/
def entryLtft2 : PidDefinition :=
  ⟨"Long term fuel trim, bank 2", "%", .one, 100, -12800, 128⟩

/-- `FP`, PID `0x0A` (R102). -/
def entryFp : PidDefinition :=
  ⟨"Fuel pressure (gauge)", "kPa", .one, 3, 0, 1⟩

/-- `MAP`, PID `0x0B` (R103). -/
def entryMap : PidDefinition :=
  ⟨"Intake manifold absolute pressure", "kPa", .one, 1, 0, 1⟩

/-- `RPM`, PID `0x0C` (R104). -/
def entryRpm : PidDefinition :=
  ⟨"Engine speed", "rpm", .two, 1, 0, 4⟩

/-- `VSS`, PID `0x0D` (R105). -/
def entryVss : PidDefinition :=
  ⟨"Vehicle speed", "km/h", .one, 1, 0, 1⟩

/-- `IAT`, PID `0x0F` (R106). -/
def entryIat : PidDefinition :=
  ⟨"Intake air temperature", "°C", .one, 1, -40, 1⟩

/-- `MAF`, PID `0x10` (R107). -/
def entryMaf : PidDefinition :=
  ⟨"Mass air flow rate", "g/s", .two, 1, 0, 100⟩

/-- `TP`, PID `0x11` (R108). -/
def entryTp : PidDefinition :=
  ⟨"Throttle position", "%", .one, 100, 0, 255⟩

/-- `RUNTM`, PID `0x1F` (R109). -/
def entryRuntm : PidDefinition :=
  ⟨"Run time since engine start", "s", .two, 1, 0, 1⟩

/-- `MILDIST`, PID `0x21` (R110). -/
def entryMildist : PidDefinition :=
  ⟨"Distance travelled with malfunction indicator lamp on", "km", .two, 1, 0, 1⟩

/-- `FLI`, PID `0x2F` (R111). -/
def entryFli : PidDefinition :=
  ⟨"Fuel tank level input", "%", .one, 100, 0, 255⟩

/-- `CLRDIST`, PID `0x31` (R112). -/
def entryClrdist : PidDefinition :=
  ⟨"Distance travelled since codes cleared", "km", .two, 1, 0, 1⟩

/-- `BARO`, PID `0x33` (R113). -/
def entryBaro : PidDefinition :=
  ⟨"Absolute barometric pressure", "kPa", .one, 1, 0, 1⟩

/-- `CATEMP11`, PID `0x3C` (R114). -/
def entryCatemp11 : PidDefinition :=
  ⟨"Catalyst temperature, bank 1 sensor 1", "°C", .two, 1, -400, 10⟩

/-- `VPWR`, PID `0x42` (R115). -/
def entryVpwr : PidDefinition :=
  ⟨"Control module voltage", "V", .two, 1, 0, 1000⟩

/-- `LAMBDA`, PID `0x44` (R116). -/
def entryLambda : PidDefinition :=
  ⟨"Commanded equivalence ratio", "ratio", .two, 1, 0, 32768⟩

/-- `AAT`, PID `0x46` (R117). -/
def entryAat : PidDefinition :=
  ⟨"Ambient air temperature", "°C", .one, 1, -40, 1⟩

/-- `TACR`, PID `0x4C` (R118). -/
def entryTacr : PidDefinition :=
  ⟨"Commanded throttle actuator", "%", .one, 100, 0, 255⟩

/-- `ALCH`, PID `0x52` (R119). -/
def entryAlch : PidDefinition :=
  ⟨"Ethanol fuel percentage", "%", .one, 100, 0, 255⟩

/-- `FRATE`, PID `0x5E` (R120). -/
def entryFrate : PidDefinition :=
  ⟨"Engine fuel rate", "L/h", .two, 1, 0, 20⟩

/-- The codes of `REGISTRY_DEFAULT` below `0x10`. -/
def registryLow : Registry :=
  [(0x04, entryLoad),
   (0x05, entryEct),
   (0x06, entryStft1),
   (0x07, entryLtft1),
   (0x0A, entryFp),
   (0x0B, entryMap),
   (0x0C, entryRpm),
   (0x0D, entryVss),
   (0x0F, entryIat)]

/-- The codes from `0x10` of `REGISTRY_DEFAULT`. -/
def registryHigh : Registry :=
  [(0x10, entryMaf),
   (0x11, entryTp),
   (0x1F, entryRuntm),
   (0x21, entryMildist),
   (0x2F, entryFli),
   (0x31, entryClrdist),
   (0x33, entryBaro),
   (0x3C, entryCatemp11),
   (0x42, entryVpwr),
   (0x44, entryLambda),
   (0x46, entryAat),
   (0x4C, entryTacr),
   (0x52, entryAlch),
   (0x5E, entryFrate)]

/-- `REGISTRY_DEFAULT`: the 23 entries of R95, codes rising. -/
def registryDefault : Registry := registryLow ++ registryHigh

/-- The two rows that are present only when `TRIM_BANK2 = true` (R95, R100, R101). -/
def registryBank2 : Registry := [(0x08, entryStft2), (0x09, entryLtft2)]

/-- The parameters at their defaults (00_scope.md R7). -/
def configDefault : Config := ⟨registryDefault, false, .lenient⟩

end Sys2Proof.Machine
end

