-- ==== Sys2Proof/Machine/State.lean ====
section
/-! DEFINITION. The state of the machine, its reset value, and the reasons it stops. The block has no mutable state of
its own (10_state.md R20): State holds the constant configuration and the two ends of the host interface. -/

namespace Sys2Proof.Machine

/-- KW's OBDResult (10_state.md R24). `value` is the exact rational `num / den`, not reduced. -/
structure Reading where
  pid  : Byte
  name : String
  unit : String
  num  : BitVec 32
  den  : BitVec 16
  deriving DecidableEq, Repr

/-- A response (R24). A field outside its "valid when" column does not exist (93_implementation_defined.md U3):
`found = 1` is `some`, and the list has exactly `count` elements. -/
inductive Response where
  | decode (result : Option Reading)
  | unpack (count : BitVec 6) (list : List PidElement)
  deriving DecidableEq, Repr

/-- The state of one instance of the block and of its host interface. -/
structure State where
  /-- The parameters of the instance, the registry among them: constant (R21, R22; log entry 1). -/
  config    : Config
  /-- MODEL's own: the requests presented and not yet served, oldest first (R23, R50; log entry 2). -/
  requests  : List Request
  /-- MODEL's own: the responses produced and not yet taken, oldest first (R24, R50; log entry 2). -/
  responses : List Response
  deriving DecidableEq, Repr

/-- The block raises no exception, trap or fault (60_exceptions.md R170): there is no fault, and no one raises one.
Safe: a step that cannot fault is what the spec states. Log entry 13. -/
inductive Fault where
  deriving DecidableEq, Repr

/-- Why the MODEL declines something. No instruction's meaning and no step answers with one; the host boundary
(Machine/Boundary.lean) does. -/
inductive Refusal where
  /-- Raised by `exec` for an instruction that has no meaning yet; no arm raises it now. Safe. -/
  | notModelled (mnemonic : String)
  /-- Raised by `present`: the frame has `ts < 0` (93_implementation_defined.md U4). Safe. -/
  | negativeTimeStamp
  /-- Raised by `present`: the frame has `dlc` in `9..15` (U5). Safe. -/
  | dlcAboveEight
  /-- Raised by `present`: the UNPACK would yield an element above `0xFF` (U2). Safe. -/
  | elementAboveFF
  /-- Raised by `packMask`: a PID lies outside the block's 32-PID window (U9). Safe. -/
  | pidOutsideWindow
  deriving DecidableEq, Repr

/-- After reset (10_state.md R32, 70_reset_and_hazards.md R190): the registry complete, the parameters at their
configured values, no request and no response pending. -/
def State.reset : State := ⟨configDefault, [], []⟩

end Sys2Proof.Machine
end

