-- ==== Sys2Proof/Machine/Flags.lean ====
section
/-! DEFINITION. The block has no flags, condition codes or predicates (10_state.md R27). What it has are the tests of
DECODE and the one output bit `found`, which is carried nowhere. -/

namespace Sys2Proof.Machine

/-- The marker test of 41_decode_frame.md R132. -/
def markerMatches (b : Byte) : Bool := decide (b = marker)

/-- The short-`dlc` test of R135: made under `STRICT` only. -/
def dlcTooShort (policy : DlcPolicy) (dlc : Dlc) (n : OperandBytes) : Bool :=
  match policy with
  | .lenient => false
  | .strict => decide (dlc.toNat < 3 + byteCount n)

/-- The response bit `found` (10_state.md R24); it carries no information in an UNPACK response. -/
def found : Response → Option Bool
  | .decode r => some r.isSome
  | .unpack _ _ => none

end Sys2Proof.Machine
end

