-- ==== Sys2Proof/Machine/Ops.lean ====
section
/-! DEFINITION. The shared operations: the registry lookup, delivering a response, rejecting, and the DECODE operation. -/

namespace Sys2Proof.Machine

/-- `Lookup(p)` (20_memory.md R42, 40_pid_registry.md R90) in the registry as built: the slot of REGISTRY, and where it
has none and `TRIM_BANK2 = true`, the bank-2 row (R95; log entry 4). -/
def lookup (c : Config) (p : Byte) : Option PidDefinition :=
  match slot c.registry p with
  | some e => some e
  | none => if c.trimBank2 then slot registryBank2 p else none

/-- Drive a response. Responses leave in the order of their requests (R50); nothing else of the state changes (R47). -/
def State.deliver (s : State) (r : Response) : State := { s with responses := s.responses ++ [r] }

/-- `reject(label)` (00_scope.md R11, 60_exceptions.md R173, R175): the block's only exceptional end. It delivers
`found = 0` and nothing else, saves nothing and reports no cause; there is no return from it (R176). -/
def reject (_cause : RejectCause) : Response := .decode none

/-- The response of a DECODE from its outcome. -/
def answer (x : Except RejectCause Reading) : Response :=
  match x with
  | .ok r => .decode (some r)
  | .error cause => reject cause

/-- Step 5 of DECODE (41_decode_frame.md R136): invoke the decode function and build the result. -/
def buildReading (e : PidDefinition) (p a b c d : Byte) : Reading :=
  ⟨p, e.name, e.unit, numField (decodeFunction e a b c d), denField e.den⟩

/-- DECODE from step 3 on, with PID code `p` (R133 to R136): the lookup, the `STRICT` test, the operands, the result. -/
def decodeEntry (g : Config) (p : Byte) (dlc : Dlc) (a b c d : Byte) : Except RejectCause Reading :=
  match lookup g p with
  | none => .error .pid
  | some e =>
    if dlcTooShort g.dlcPolicy dlc e.bytes then .error .dlc
    else .ok (buildReading e p a b c d)

/-- The whole of DECODE (R138). -/
def decodeFrame (g : Config) (r : Request) : Except RejectCause Reading :=
  if idInWindow r.id = false then .error .id
  else if markerMatches (pay r.data 1) = false then .error .marker
  else decodeEntry g (pay r.data 2) r.dlc (pay r.data 3) (pay r.data 4) (pay r.data 5) (pay r.data 6)

/-- Serve a DEC row of the opcode table: its identifier and marker tests are passed by its encoding (30_encoding.md
R67), the rest is DECODE from step 3 on. -/
def serveEntry (p : Byte) (f : DecFields) (s : State) : Host.Outcome State Fault Refusal :=
  .next (s.deliver (answer (decodeEntry s.config p f.dlc f.a f.b f.c f.d)))

/-- The response of UNPACK (42_unpack_bitmask.md R157). -/
def unpackResponse (start : Byte) (m : BitVec 32) : Response :=
  .unpack (BitVec.ofNat 6 (elements start m).length) (elements start m)

/-- The oldest request and the state without it: the block serves requests in the order presented (R50). -/
def takeRequest (s : State) : Option (Request × State) :=
  match s.requests with
  | [] => none
  | r :: rest => some (r, { s with requests := rest })

/-- `value`, the exact rational of a result (R24). -/
def Reading.value (r : Reading) : Rat := (r.num.toInt : Rat) / (r.den.toNat : Rat)

/-- The bytes of `name` on a physical port, by the parameter `STR_ENC` (R7, D11). -/
def Reading.namePort (r : Reading) : List Byte := Config.strEnc r.name

/-- The bytes of `unit` on a physical port, by the parameter `STR_ENC`. -/
def Reading.unitPort (r : Reading) : List Byte := Config.strEnc r.unit

end Sys2Proof.Machine
end

