-- ==== Sys2Proof/Machine/CurrentData.lean ====
section
/-! DEFINITION. The meanings of the 25 DECODE rows, one definition per row over the shared operation `serveEntry`, and
the meaning of a DECODE request that no row lists. -/

namespace Sys2Proof.Machine

/-- `LOAD` (R96): DECODE with the registry slot `0x04`. -/
def execLoad (f : DecFields) (s : State) : Host.Outcome State Fault Refusal :=
  serveEntry 0x04 f s

/-- `ECT` (R97): DECODE with the registry slot `0x05`. -/
def execEct (f : DecFields) (s : State) : Host.Outcome State Fault Refusal :=
  serveEntry 0x05 f s

/-- `STFT1` (R98): DECODE with the registry slot `0x06`. -/
def execStft1 (f : DecFields) (s : State) : Host.Outcome State Fault Refusal :=
  serveEntry 0x06 f s

/-- `LTFT1` (R99): DECODE with the registry slot `0x07`. -/
def execLtft1 (f : DecFields) (s : State) : Host.Outcome State Fault Refusal :=
  serveEntry 0x07 f s

/-- `STFT2` (R100): DECODE with the registry slot `0x08`. -/
def execStft2 (f : DecFields) (s : State) : Host.Outcome State Fault Refusal :=
  serveEntry 0x08 f s

/-- `LTFT2` (R101): DECODE with the registry slot `0x09`. -/
def execLtft2 (f : DecFields) (s : State) : Host.Outcome State Fault Refusal :=
  serveEntry 0x09 f s

/-- `FP` (R102): DECODE with the registry slot `0x0A`. -/
def execFp (f : DecFields) (s : State) : Host.Outcome State Fault Refusal :=
  serveEntry 0x0A f s

/-- `MAP` (R103): DECODE with the registry slot `0x0B`. -/
def execMap (f : DecFields) (s : State) : Host.Outcome State Fault Refusal :=
  serveEntry 0x0B f s

/-- `RPM` (R104): DECODE with the registry slot `0x0C`. -/
def execRpm (f : DecFields) (s : State) : Host.Outcome State Fault Refusal :=
  serveEntry 0x0C f s

/-- `VSS` (R105): DECODE with the registry slot `0x0D`. -/
def execVss (f : DecFields) (s : State) : Host.Outcome State Fault Refusal :=
  serveEntry 0x0D f s

/-- `IAT` (R106): DECODE with the registry slot `0x0F`. -/
def execIat (f : DecFields) (s : State) : Host.Outcome State Fault Refusal :=
  serveEntry 0x0F f s

/-- `MAF` (R107): DECODE with the registry slot `0x10`. -/
def execMaf (f : DecFields) (s : State) : Host.Outcome State Fault Refusal :=
  serveEntry 0x10 f s

/-- `TP` (R108): DECODE with the registry slot `0x11`. -/
def execTp (f : DecFields) (s : State) : Host.Outcome State Fault Refusal :=
  serveEntry 0x11 f s

/-- `RUNTM` (R109): DECODE with the registry slot `0x1F`. -/
def execRuntm (f : DecFields) (s : State) : Host.Outcome State Fault Refusal :=
  serveEntry 0x1F f s

/-- `MILDIST` (R110): DECODE with the registry slot `0x21`. -/
def execMildist (f : DecFields) (s : State) : Host.Outcome State Fault Refusal :=
  serveEntry 0x21 f s

/-- `FLI` (R111): DECODE with the registry slot `0x2F`. -/
def execFli (f : DecFields) (s : State) : Host.Outcome State Fault Refusal :=
  serveEntry 0x2F f s

/-- `CLRDIST` (R112): DECODE with the registry slot `0x31`. -/
def execClrdist (f : DecFields) (s : State) : Host.Outcome State Fault Refusal :=
  serveEntry 0x31 f s

/-- `BARO` (R113): DECODE with the registry slot `0x33`. -/
def execBaro (f : DecFields) (s : State) : Host.Outcome State Fault Refusal :=
  serveEntry 0x33 f s

/-- `CATEMP11` (R114): DECODE with the registry slot `0x3C`. -/
def execCatemp11 (f : DecFields) (s : State) : Host.Outcome State Fault Refusal :=
  serveEntry 0x3C f s

/-- `VPWR` (R115): DECODE with the registry slot `0x42`. -/
def execVpwr (f : DecFields) (s : State) : Host.Outcome State Fault Refusal :=
  serveEntry 0x42 f s

/-- `LAMBDA` (R116): DECODE with the registry slot `0x44`. -/
def execLambda (f : DecFields) (s : State) : Host.Outcome State Fault Refusal :=
  serveEntry 0x44 f s

/-- `AAT` (R117): DECODE with the registry slot `0x46`. -/
def execAat (f : DecFields) (s : State) : Host.Outcome State Fault Refusal :=
  serveEntry 0x46 f s

/-- `TACR` (R118): DECODE with the registry slot `0x4C`. -/
def execTacr (f : DecFields) (s : State) : Host.Outcome State Fault Refusal :=
  serveEntry 0x4C f s

/-- `ALCH` (R119): DECODE with the registry slot `0x52`. -/
def execAlch (f : DecFields) (s : State) : Host.Outcome State Fault Refusal :=
  serveEntry 0x52 f s

/-- `FRATE` (R120): DECODE with the registry slot `0x5E`. -/
def execFrate (f : DecFields) (s : State) : Host.Outcome State Fault Refusal :=
  serveEntry 0x5E f s

/-- A DECODE request whose word matches no row of the opcode table (30_encoding.md R71): the whole of R138. With the
default registry it is rejected; with a REGISTRY that has a code of its own it can be accepted (log entry 17). -/
def execUnlisted (r : Request) (s : State) : Host.Outcome State Fault Refusal :=
  .next (s.deliver (answer (decodeFrame s.config r)))

end Sys2Proof.Machine
end

