-- ==== Sys2Proof/Machine/Unpack.lean ====
section
/-! DEFINITION. The meaning of UNPACK. -/

namespace Sys2Proof.Machine

/-- `UNPACK` (42_unpack_bitmask.md R157): the elements of the set positions of the mask, and their number. It tests
nothing and reads no other field (R155). -/
def execUnpack (f : UnpFields) (s : State) : Host.Outcome State Fault Refusal :=
  .next (s.deliver (unpackResponse f.startPid (assembleMask f.m0 f.m1 f.m2 f.m3)))

end Sys2Proof.Machine
end

