-- ==== Sys2Proof/Machine/Dispatch.lean ====
section
/-! DEFINITION. The dispatch: one arm per constructor of `Instr`, each one call of its meaning. -/

namespace Sys2Proof.Machine

def exec (i : Instr) (s : State) : Host.Outcome State Fault Refusal :=
  match i with
  | .load f => Sys2Proof.Machine.execLoad f s
  | .ect f => Sys2Proof.Machine.execEct f s
  | .stft1 f => Sys2Proof.Machine.execStft1 f s
  | .ltft1 f => Sys2Proof.Machine.execLtft1 f s
  | .stft2 f => Sys2Proof.Machine.execStft2 f s
  | .ltft2 f => Sys2Proof.Machine.execLtft2 f s
  | .fp f => Sys2Proof.Machine.execFp f s
  | .map f => Sys2Proof.Machine.execMap f s
  | .rpm f => Sys2Proof.Machine.execRpm f s
  | .vss f => Sys2Proof.Machine.execVss f s
  | .iat f => Sys2Proof.Machine.execIat f s
  | .maf f => Sys2Proof.Machine.execMaf f s
  | .tp f => Sys2Proof.Machine.execTp f s
  | .runtm f => Sys2Proof.Machine.execRuntm f s
  | .mildist f => Sys2Proof.Machine.execMildist f s
  | .fli f => Sys2Proof.Machine.execFli f s
  | .clrdist f => Sys2Proof.Machine.execClrdist f s
  | .baro f => Sys2Proof.Machine.execBaro f s
  | .catemp11 f => Sys2Proof.Machine.execCatemp11 f s
  | .vpwr f => Sys2Proof.Machine.execVpwr f s
  | .lambda f => Sys2Proof.Machine.execLambda f s
  | .aat f => Sys2Proof.Machine.execAat f s
  | .tacr f => Sys2Proof.Machine.execTacr f s
  | .alch f => Sys2Proof.Machine.execAlch f s
  | .frate f => Sys2Proof.Machine.execFrate f s
  | .unpack f => Sys2Proof.Machine.execUnpack f s

end Sys2Proof.Machine
end

