-- ==== Sys2Proof/Machine/Step.lean ====
section
/-! DEFINITION. One step: the oldest request is taken and served (00_scope.md R6). -/

namespace Sys2Proof.Machine

/-- One step. With no request the block is idle, and idleness holds no state (60_exceptions.md R180; log entry 9).
Otherwise the request's word is decoded and run; a DECODE request that no row of the opcode table lists is served by the
same operation, unlisted (30_encoding.md R71). -/
def step (s : State) : Host.Outcome State Fault Refusal :=
  match takeRequest s with
  | none => .next s
  | some (r, s') =>
    match decode r.word with
    | .ok i => exec i s'
    | .error _ => execUnlisted r s'

/-- `s` with the request of word `w` presented ahead of all others, so that the very next step serves exactly it. A
request word has 106 bits; the bits above `nbits` are 0 by the caller's contract. Log entry 8. -/
def State.withFetchWord (s : State) (_nbits w : Nat) : State :=
  { s with requests := Request.ofWord (BitVec.ofNat 106 w) :: s.requests }

end Sys2Proof.Machine
end

