-- ==== Sys2Proof/WellFormed.lean ====
section
/-! DEFINITION. Well-formedness: of the CanFrame part of a request (30_encoding.md R61), of an UNPACK (92_eei_decisions.md
D9), and of a configuration (93_implementation_defined.md U7). The block itself checks none of it (R61); the boundary
operation `present` does (log entry 5). -/

namespace Sys2Proof

open Sys2Proof.Machine

/-- `0 <= dlc <= 8` (R61). -/
def dlcValid (dlc : Dlc) : Bool := decide (dlc.toNat ≤ 8)

/-- `ts >= 0` (R61). -/
def tsValid (ts : TimeStamp) : Bool := decide (0 ≤ ts.toInt)

/-- Every element of an UNPACK fits the 8 bits of a PID (R156, U2). -/
def elementsFit (start : Byte) (m : BitVec 32) : Bool :=
  (elements start m).all fun e => decide (e.toNat ≤ 0xFF)

/-- An instruction the host may present: a valid `dlc`, and for UNPACK only elements that name a PID. -/
def Instr.wellFormed (i : Instr) : Bool :=
  match i with
  | .unpack f => dlcValid f.dlc && elementsFit f.startPid (assembleMask f.m0 f.m1 f.m2 f.m3)
  | i => match i.dec? with
    | some (_, f) => dlcValid f.dlc
    | none => true

/-- A request the host may present. -/
def Request.wellFormed (r : Request) : Bool :=
  tsValid r.ts && dlcValid r.dlc &&
    match r.op with
    | .decode => true
    | .unpack => elementsFit r.startPid (assembleMask r.data.b3 r.data.b4 r.data.b5 r.data.b6)

/-- An admitted entry (U7): `MUL >= 1`, `1 <= DEN < 2^16`, and a numerator that fits its 32-bit field. U7 bounds the
numerator at `raw = 65535`; the model bounds it at `raw = 0` too (log entry 7). -/
def PidDefinition.wellFormed (e : PidDefinition) : Bool :=
  decide (1 ≤ e.mul) && decide (1 ≤ e.den) && decide (e.den < 65536) &&
    decide (-2147483648 < numerator e 65535) && decide (numerator e 65535 < 2147483648) &&
    decide (-2147483648 ≤ e.add)

/-- The canonical form of a registry: codes strictly rising, every entry admitted. -/
def Registry.wellFormed : Registry → Bool
  | [] => true
  | [c] => c.2.wellFormed
  | c :: c' :: g => decide (c.1.toNat < c'.1.toNat) && c.2.wellFormed && Registry.wellFormed (c' :: g)

/-- A configuration the spec admits. -/
def Config.wellFormed (c : Config) : Bool := Registry.wellFormed c.registry

end Sys2Proof
end

