-- ==== Sys2Proof/Machine/Boundary.lean ====
section
/-! DEFINITION. What the host does to the block between steps: present a request, take a response, assert reset; and
`packMask`, the inverse direction of UNPACK, which is not part of the block and serves to state the round-trip law. -/

namespace Sys2Proof.Machine

/-- Why the model refuses a request at its boundary, if it does (93_implementation_defined.md U4, U5, U2; log entry 5).
The block itself is total on such a request. -/
def boundaryRefusal (r : Request) : Option Refusal :=
  if tsValid r.ts = false then some .negativeTimeStamp
  else if dlcValid r.dlc = false then some .dlcAboveEight
  else match r.op with
    | .decode => none
    | .unpack =>
      if elementsFit r.startPid (assembleMask (pay r.data 3) (pay r.data 4) (pay r.data 5) (pay r.data 6)) then none
      else some .elementAboveFF

/-- The host presents a request (70_reset_and_hazards.md R193): it joins the requests presented before it (R50). -/
def present (r : Request) (s : State) : Host.Outcome State Fault Refusal :=
  match boundaryRefusal r with
  | none => .next { s with requests := s.requests ++ [r] }
  | some why => .refused why

/-- The host takes the oldest response; the block does not hold it after that (10_state.md R24). -/
def takeResponse (s : State) : Option (Response × State) :=
  match s.responses with
  | [] => none
  | x :: rest => some (x, { s with responses := rest })

/-- The host asserts reset: what is pending is dropped without a response, the configuration is unaffected
(70_reset_and_hazards.md R190, R191, U12; log entry 10). -/
def applyReset (s : State) : State := { s with requests := [], responses := [] }

/-- `q` lies in the 32-PID window of block `base`: `base + 1 <= q <= base + 32` (42_unpack_bitmask.md R158). -/
def inBlock (base : Byte) (q : PidElement) : Bool :=
  decide (base.toNat + 1 ≤ q.toNat) && decide (q.toNat ≤ base.toNat + 32)

/-- The mask with `m[31 - (q - base - 1)] = 1` exactly for the `q` of the set. -/
def maskOf (qs : List PidElement) (base : Byte) : BitVec 32 :=
  BitVec.ofFnLE fun j : Fin 32 => decide (elementAt base (31 - j.val) ∈ qs)

/-- `PackMask(S, B)` (R158), with the set given as a list; refused where a PID lies outside the window (U9; log entry 18). -/
def packMask (qs : List PidElement) (base : Byte) : Host.Outcome (BitVec 32) Fault Refusal :=
  if qs.all (inBlock base) then .next (maskOf qs base) else .refused .pidOutsideWindow

/-- The payload the support emulator builds: `06 41 B` and the mask, big-endian, then `00` (R158). -/
def maskPayload (base : Byte) (m : BitVec 32) : Payload :=
  ⟨0x06, 0x41, base, m.extractLsb' 24 8, m.extractLsb' 16 8, m.extractLsb' 8 8, m.extractLsb' 0 8, 0x00⟩

end Sys2Proof.Machine
end

