-- ==== Sys2Proof/Safety.lean ====
section
/-! DEFINITION. What counts as a safe run, and the invariants of the machine. -/

namespace Sys2Proof.Machine

/-- A step that goes on: no fault, no refusal (60_exceptions.md R170). -/
def StepGoesOn (s : State) : Prop := ∃ t, step s = .next t

/-- The only condition on `dlc` (41_decode_frame.md R135): the policy is `STRICT` and `dlc` does not cover the `n`
operand bytes. Under `LENIENT` it never holds. -/
abbrev ShortDlc (s : State) (n : Nat) (dlc : Dlc) : Prop := s.config.dlcPolicy = .strict ∧ dlc.toNat < 3 + n

/-- A result the block can have produced: its strings and denominator are those of the entry of its code, and its
numerator is the entry's formula at some operand (41_decode_frame.md R136). -/
def Reading.Legal (c : Config) (r : Reading) : Prop :=
  ∃ e, lookup c r.pid = some e ∧ r.name = e.name ∧ r.unit = e.unit ∧ r.den.toNat = e.den ∧
    ∃ raw, raw ≤ rawMax e.bytes ∧ r.num.toInt = numerator e raw

/-- A response the block can have produced: a rejection, a legal result, or a strictly rising list of at most 32
elements in one 32-PID window with its true count (42_unpack_bitmask.md R152, R153). -/
def Response.Legal (c : Config) : Response → Prop
  | .decode none => True
  | .decode (some r) => r.Legal c
  | .unpack n l => n.toNat = l.length ∧ l.length ≤ 32 ∧ l.Pairwise (fun x y => x.toNat < y.toNat) ∧
      ∃ base : Byte, ∀ x ∈ l, base.toNat + 1 ≤ x.toNat ∧ x.toNat ≤ base.toNat + 32

/-- The invariant of the machine: the configuration is one the spec admits, and every pending response is legal. -/
def State.Inv (s : State) : Prop :=
  s.config.wellFormed = true ∧ ∀ x ∈ s.responses, x.Legal s.config

/-- A response whose elements all name a PID (42_unpack_bitmask.md R156). -/
def Response.NamesPids : Response → Prop
  | .decode _ => True
  | .unpack _ l => ∀ x ∈ l, x.toNat ≤ 0xFF

/-- The state of a host that keeps its obligations: only well-formed requests are pending, and only elements that name a
PID have been delivered (70_reset_and_hazards.md R193). -/
def State.Admitted (s : State) : Prop :=
  (∀ r ∈ s.requests, r.wellFormed = true) ∧ ∀ x ∈ s.responses, x.NamesPids

end Sys2Proof.Machine
end

