-- ==== Sys2Proof/Certificates/Slice0/Obligations.lean ====
section
/-! DEFINITION. The statements about the machine. Each docstring names the rule of spec/ it formalises. -/

open Sys2Proof Sys2Proof.Machine

/-! ## Reset, step, encoding -/

/-- 70_reset_and_hazards.md R190, 10_state.md R32 (the spec's decision D13; the empty ends of the host interface are the
model's, log entries 2 and 10): after reset the block holds the default registry and parameters, nothing is pending, and
asserting reset in any state leaves the configuration and drops what is pending. -/
def Obligations.ResetLeavesRegistryAndNothingPending : Prop :=
  State.reset = ⟨⟨registryDefault, false, .lenient⟩, [], []⟩ ∧
  ∀ s : State, (applyReset s).config = s.config ∧ (applyReset s).requests = [] ∧ (applyReset s).responses = []

/-- A step runs the decoded instruction (00_scope.md R6, 30_encoding.md R71). With no request the block is idle
(60_exceptions.md R180; log entry 9). The oldest request is taken; if its word decodes to `i` the step is `exec i` on the
state without that request; if the word selects no row, the step is the whole DECODE of R138 on it (log entry 17). A word
presented by `withFetchWord` runs as its instruction (log entry 8). -/
def Obligations.StepRunsTheDecodedInstruction : Prop :=
  (∀ s : State, s.requests = [] → step s = .next s) ∧
  (∀ (s : State) (r : Request) (rest : List Request) (i : Instr), s.requests = r :: rest → decode r.word = .ok i →
    step s = exec i { s with requests := rest }) ∧
  (∀ (s : State) (r : Request) (rest : List Request) (c : RejectCause), s.requests = r :: rest →
    decode r.word = .error c →
    step s = .next (State.deliver { s with requests := rest } (answer (decodeFrame s.config r)))) ∧
  ∀ (s : State) (nbits w : Nat) (i : Instr), decodeTableWord nbits w = some i →
    step (s.withFetchWord nbits w) = exec i s

/-- Words written out from R62 (95_test_vectors.md section 2.8, RW1 to RW8) decode to the instructions they stand for,
and the three rejected ones are rejected by name. -/
def Obligations.WrittenOutWordsDecode : Prop :=
  decode 0x00000007E8804410C1AF8000000 = .ok (.rpm ⟨0, 0, 8, 0x04, 0x1A, 0xF8, 0, 0, 0⟩) ∧
  decode 0x00000007EF80341057D00000000 = .ok (.ect ⟨0, 7, 8, 0x03, 0x7D, 0, 0, 0, 0⟩) ∧
  decode 0x06600007EA3FF415E007BAABBCC = .ok (.frate ⟨0x33, 2, 3, 0xFF, 0x00, 0x7B, 0xAA, 0xBB, 0xCC⟩) ∧
  decode 0x00000007F0804410C1AF8000000 = .error .id ∧
  decode 0x00000007E8804400C1AF8000000 = .error .marker ∧
  decode 0x00000007E88064100BE1FA81300 = .error .pid ∧
  decode 0x20000000000064100BE1FA81300 =
    .ok (.unpack ⟨0, 0, 0, 0x06, 0x41, 0x00, 0xBE, 0x1F, 0xA8, 0x13, 0x00⟩) ∧
  decode 0x24000007E880641208002A01000 =
    .ok (.unpack ⟨0x20, 0x7E8, 8, 0x06, 0x41, 0x20, 0x80, 0x02, 0xA0, 0x10, 0x00⟩)

/-- Decode and encode agree, on every instruction with every operand at every value (R62, R67, R68). -/
def Obligations.DecodeEncodeRoundTrip : Prop := ∀ i : Instr, decode (encode i) = .ok i

/-- A word that decodes is the word of its instruction: no bit of it is dropped (R62). -/
def Obligations.EncodeOfDecodedWordIsTheWord : Prop :=
  ∀ (w : RequestWord) (i : Instr), decode w = .ok i → encode i = w

/-- The decoder is the match and mask table (30_encoding.md R67, R68, R75, which the spec derives): a word selects the
DEC row of code `p` exactly when `p` is one of the 25 codes and the word matches its pattern under `MASK_DEC`, and it
selects UNPACK exactly when it matches under `MASK_UNP`. -/
def Obligations.MatchAndMaskRowsSelect : Prop :=
  ∀ w : RequestWord,
    (∀ p : Byte, (∃ i f, decode w = .ok i ∧ i.dec? = some (p, f)) ↔
      p ∈ ([0x04, 0x05, 0x06, 0x07, 0x08, 0x09, 0x0A, 0x0B, 0x0C, 0x0D, 0x0F, 0x10, 0x11, 0x1F, 0x21, 0x2F, 0x31, 0x33,
        0x3C, 0x42, 0x44, 0x46, 0x4C, 0x52, 0x5E] : List Byte) ∧
      w &&& 0x201FFFFFF8000FFFF0000000000 = 0x00000007E800041000000000000 + (p.setWidth 106 <<< 40)) ∧
    ((∃ f, decode w = .ok (.unpack f)) ↔ w &&& 0x200000000000000000000000000 = 0x200000000000000000000000000)

/-- The present slots of the default registry (30_encoding.md R67, 40_pid_registry.md R95; the codes are the spec's
general knowledge, log entry 3): 23 codes, and with `TRIM_BANK2 = true` also `0x08` and `0x09`. -/
def Obligations.DefaultRegistryCodes : Prop :=
  ∀ (c : Config) (p : Byte), c.registry = registryDefault →
    ((lookup c p).isSome = true ↔
      p ∈ ([0x04, 0x05, 0x06, 0x07, 0x0A, 0x0B, 0x0C, 0x0D, 0x0F, 0x10, 0x11, 0x1F, 0x21, 0x2F, 0x31, 0x33, 0x3C, 0x42,
        0x44, 0x46, 0x4C, 0x52, 0x5E] : List Byte) ∨
      (c.trimBank2 = true ∧ (p = 0x08 ∨ p = 0x09)))

/-- `Lookup` (40_pid_registry.md section 1) in an admitted configuration returns an entry exactly when the registry lists it
for the code; where it lists none and `TRIM_BANK2 = true`, the bank-2 rows count as listed (log entry 4). -/
def Obligations.LookupReturnsTheListedEntry : Prop :=
  ∀ (c : Config) (p : Byte) (e : PidDefinition), c.wellFormed = true →
    (lookup c p = some e ↔
      (p, e) ∈ c.registry ∨
      (c.trimBank2 = true ∧ (∀ e', (p, e') ∉ c.registry) ∧
        ((p = 0x08 ∧ e = ⟨"Short term fuel trim, bank 2", "%", .one, 100, -12800, 128⟩) ∨
         (p = 0x09 ∧ e = ⟨"Long term fuel trim, bank 2", "%", .one, 100, -12800, 128⟩))))

/-! ## DECODE -/

/-- 60_exceptions.md R172: the tests are made in the order `REJ_ID`, `REJ_MARKER`, `REJ_PID`, `REJ_DLC`, and the first
that fails is the cause. -/
def Obligations.RejectionCausesInOrder : Prop :=
  ∀ (g : Config) (r : Request),
    (decodeFrame g r = .error .id ↔ (r.id.toNat < 0x7E8 ∨ 0x7EF < r.id.toNat)) ∧
    (decodeFrame g r = .error .marker ↔
      0x7E8 ≤ r.id.toNat ∧ r.id.toNat ≤ 0x7EF ∧ pay r.data 1 ≠ 0x41) ∧
    (decodeFrame g r = .error .pid ↔
      0x7E8 ≤ r.id.toNat ∧ r.id.toNat ≤ 0x7EF ∧ pay r.data 1 = 0x41 ∧ lookup g (pay r.data 2) = none) ∧
    (decodeFrame g r = .error .dlc ↔
      0x7E8 ≤ r.id.toNat ∧ r.id.toNat ≤ 0x7EF ∧ pay r.data 1 = 0x41 ∧
        ∃ e, lookup g (pay r.data 2) = some e ∧ g.dlcPolicy = .strict ∧ r.dlc.toNat < 3 + byteCount e.bytes)

/-- 60_exceptions.md R173: whatever the cause, the response to a rejected request is `found = 0` and nothing else, and
nothing else of the state changes. -/
def Obligations.RejectedRequestReportsNoCause : Prop :=
  ∀ (s : State) (r : Request) (rest : List Request) (c : RejectCause), s.requests = r :: rest → r.op = .decode →
    decodeFrame s.config r = .error c →
    step s = .next ⟨s.config, rest, s.responses ++ [.decode none]⟩

/-- 41_decode_frame.md R131, R132, R133: each of the first three tests that fails ends DECODE with `found = 0`, whatever
the other fields hold, and a frame that passes a test is not rejected for it (the bounds of the window are inclusive). -/
def Obligations.FirstThreeTestsReject : Prop :=
  (∀ (s : State) (r : Request) (rest : List Request), s.requests = r :: rest → r.op = .decode →
    (r.id.toNat < 0x7E8 ∨ 0x7EF < r.id.toNat ∨ pay r.data 1 ≠ 0x41 ∨ lookup s.config (pay r.data 2) = none) →
    step s = .next ⟨s.config, rest, s.responses ++ [.decode none]⟩) ∧
  (∀ (g : Config) (r : Request), r.id.toNat < 0x7E8 ∨ 0x7EF < r.id.toNat → decodeFrame g r = .error .id) ∧
  ∀ (g : Config) (r : Request), 0x7E8 ≤ r.id.toNat → r.id.toNat ≤ 0x7EF →
    decodeFrame g r ≠ .error .id ∧
    (pay r.data 1 ≠ 0x41 → decodeFrame g r = .error .marker) ∧
    (pay r.data 1 = 0x41 → decodeFrame g r ≠ .error .marker ∧
      (lookup g (pay r.data 2) = none → decodeFrame g r = .error .pid) ∧
      (lookup g (pay r.data 2) ≠ none → decodeFrame g r ≠ .error .pid))

/-- 41_decode_frame.md R136: a frame that passes every test gets `found = 1`, the code read from it, the entry's strings
and denominator, and `MUL*raw + ADD` with `raw = A` or `256*A + B`. The two integers are read from their fields where the
entry is one the spec admits (U7); for any other entry the response is the same but for those two values. -/
def Obligations.AcceptedFrameBuildsReading : Prop :=
  ∀ (s : State) (r : Request) (rest : List Request) (e : PidDefinition), s.requests = r :: rest → r.op = .decode →
    0x7E8 ≤ r.id.toNat → r.id.toNat ≤ 0x7EF → pay r.data 1 = 0x41 → lookup s.config (pay r.data 2) = some e →
    ¬ ShortDlc s (byteCount e.bytes) r.dlc →
    ∃ (num : BitVec 32) (den : BitVec 16),
      step s = .next ⟨s.config, rest, s.responses ++ [.decode (some ⟨pay r.data 2, e.name, e.unit, num, den⟩)]⟩ ∧
      (e.wellFormed = true → den.toNat = e.den ∧
        (e.bytes = .one → num.toInt = e.mul * (pay r.data 3).toNat + e.add) ∧
        (e.bytes = .two → num.toInt = e.mul * (256 * (pay r.data 3).toNat + (pay r.data 4).toNat) + e.add))

/-- 41_decode_frame.md R135 (the spec's decision D5): under `LENIENT` the response does not depend on `dlc`; under
`STRICT` a frame whose entry is known is rejected when `dlc < 3 + bytes`. -/
def Obligations.DlcCountsOnlyUnderStrict : Prop :=
  (∀ (s : State) (r : Request) (rest : List Request) (d : Dlc), r.op = .decode → s.config.dlcPolicy = .lenient →
    step { s with requests := { r with dlc := d } :: rest } = step { s with requests := r :: rest }) ∧
  ∀ (s : State) (r : Request) (rest : List Request) (e : PidDefinition), s.requests = r :: rest → r.op = .decode →
    lookup s.config (pay r.data 2) = some e → s.config.dlcPolicy = .strict → r.dlc.toNat < 3 + byteCount e.bytes →
    step s = .next ⟨s.config, rest, s.responses ++ [.decode none]⟩

/-- 41_decode_frame.md R138: for every DECODE request a step answers what the pseudocode of the rule computes, which is
written out here over the request's fields, whichever row of the opcode table the request selects, if any. Where the
registry is not one the spec admits (U7), an integer that does not fit its field is a free value (`numField`, `denField`;
log entry 6, the model's choice). -/
def Obligations.DecodeStepMeetsPseudocode : Prop :=
  ∀ (s : State) (r : Request) (rest : List Request), s.requests = r :: rest → r.op = .decode →
    step s = .next ⟨s.config, rest, s.responses ++ [.decode (
      if r.id.toNat < 0x7E8 ∨ 0x7EF < r.id.toNat then none
      else if r.data.b1 ≠ 0x41 then none
      else match lookup s.config r.data.b2 with
        | none => none
        | some e =>
          if s.config.dlcPolicy = .strict ∧ r.dlc.toNat < 3 + (if e.bytes = .one then 1 else 2) then none
          else some ⟨r.data.b2, e.name, e.unit,
            numField (e.mul * (if e.bytes = .one then (r.data.b3.toNat : Int)
              else 256 * r.data.b3.toNat + r.data.b4.toNat) + e.add),
            denField e.den⟩)]⟩

/-- 41_decode_frame.md R141 (which the spec derives): a DECODE gets `found = 1` exactly when
`(id AND 0x1FFFFFF8) = 0x7E8`, the marker is `0x41`, the code has an entry and, under `STRICT`, `dlc >= 3 + bytes`. -/
def Obligations.AcceptanceCharacterised : Prop :=
  ∀ (s : State) (r : Request) (rest : List Request), s.requests = r :: rest → r.op = .decode →
    ∃ x, step s = .next ⟨s.config, rest, s.responses ++ [x]⟩ ∧
      (found x = some true ↔
        r.id &&& 0x1FFFFFF8 = 0x7E8 ∧ pay r.data 1 = 0x41 ∧
          ∃ e, lookup s.config (pay r.data 2) = some e ∧
            (s.config.dlcPolicy = .strict → 3 + byteCount e.bytes ≤ r.dlc.toNat))

/-! ## The registry entries -/

/-- 40_pid_registry.md R92, R93, for every DEC instruction and every registry: `raw` is `A` or `256*A + B`, unsigned;
`C`, `D` and, for a one-byte entry, `B` are not read; the numerator is the formula's value at every operand, never
clamped; and the exact rational is `(MUL*raw + ADD) / DEN`. -/
def Obligations.ListedEntryFollowsItsFormula : Prop :=
  ∀ (i : Instr) (p : Byte) (f : DecFields) (s : State) (e : PidDefinition), i.dec? = some (p, f) →
    lookup s.config p = some e → e.wellFormed = true → ¬ ShortDlc s (byteCount e.bytes) f.dlc →
    ∃ x : Reading, exec i s = .next (s.deliver (.decode (some x))) ∧
      x.pid = p ∧ x.name = e.name ∧ x.unit = e.unit ∧ x.den.toNat = e.den ∧
      (e.bytes = .one → x.num.toInt = e.mul * f.a.toNat + e.add) ∧
      (e.bytes = .two → x.num.toInt = e.mul * (256 * f.a.toNat + f.b.toNat) + e.add) ∧
      x.value = ((x.num.toInt : Int) : Rat) / (e.den : Rat)

/-- 41_decode_frame.md R133, R135, for every DEC instruction: it answers `found = 0` when its slot is absent, and under
`STRICT` when `dlc < 3 + bytes`. With `TRIM_BANK2 = false` the slots of `STFT2` and `LTFT2` are absent by default
(40_pid_registry.md R100, R101). -/
def Obligations.ListedEntryRejections : Prop :=
  (∀ (i : Instr) (p : Byte) (f : DecFields) (s : State), i.dec? = some (p, f) → lookup s.config p = none →
    exec i s = .next (s.deliver (.decode none))) ∧
  (∀ (i : Instr) (p : Byte) (f : DecFields) (s : State) (e : PidDefinition), i.dec? = some (p, f) →
    lookup s.config p = some e → ShortDlc s (byteCount e.bytes) f.dlc →
    exec i s = .next (s.deliver (.decode none))) ∧
  ∀ (f : DecFields) (s : State), s.config.registry = registryDefault → s.config.trimBank2 = false →
    exec (.stft2 f) s = .next (s.deliver (.decode none)) ∧ exec (.ltft2 f) s = .next (s.deliver (.decode none))

/-- `LOAD`, `TP`, `FLI`, `TACR`, `ALCH` (40_pid_registry.md R96, R108, R111, R118, R119) with the default registry, whose
constants are the spec's general knowledge (log entry 3): `100*A / 255` percent. -/
def Obligations.PercentEntriesResult : Prop :=
  ∀ (f : DecFields) (s : State), s.config.registry = registryDefault → ¬ ShortDlc s 1 f.dlc →
    exec (.load f) s = .next (s.deliver (.decode (some
      ⟨0x04, "Calculated engine load", "%", BitVec.ofInt 32 (100 * f.a.toNat), 255⟩))) ∧
    exec (.tp f) s = .next (s.deliver (.decode (some
      ⟨0x11, "Throttle position", "%", BitVec.ofInt 32 (100 * f.a.toNat), 255⟩))) ∧
    exec (.fli f) s = .next (s.deliver (.decode (some
      ⟨0x2F, "Fuel tank level input", "%", BitVec.ofInt 32 (100 * f.a.toNat), 255⟩))) ∧
    exec (.tacr f) s = .next (s.deliver (.decode (some
      ⟨0x4C, "Commanded throttle actuator", "%", BitVec.ofInt 32 (100 * f.a.toNat), 255⟩))) ∧
    exec (.alch f) s = .next (s.deliver (.decode (some
      ⟨0x52, "Ethanol fuel percentage", "%", BitVec.ofInt 32 (100 * f.a.toNat), 255⟩)))

/-- `ECT`, `IAT`, `AAT` (R97, R106, R117) with the default registry (log entry 3): `A - 40` °C. -/
def Obligations.TemperatureEntriesResult : Prop :=
  ∀ (f : DecFields) (s : State), s.config.registry = registryDefault → ¬ ShortDlc s 1 f.dlc →
    exec (.ect f) s = .next (s.deliver (.decode (some
      ⟨0x05, "Engine coolant temperature", "°C", BitVec.ofInt 32 (f.a.toNat - 40), 1⟩))) ∧
    exec (.iat f) s = .next (s.deliver (.decode (some
      ⟨0x0F, "Intake air temperature", "°C", BitVec.ofInt 32 (f.a.toNat - 40), 1⟩))) ∧
    exec (.aat f) s = .next (s.deliver (.decode (some
      ⟨0x46, "Ambient air temperature", "°C", BitVec.ofInt 32 (f.a.toNat - 40), 1⟩)))

/-- `STFT1`, `LTFT1` with the default registry, and `STFT2`, `LTFT2` where also `TRIM_BANK2 = true` (R98 to R101; log
entries 3, 4): `(100*A - 12800) / 128` percent. -/
def Obligations.FuelTrimEntriesResult : Prop :=
  ∀ (f : DecFields) (s : State), s.config.registry = registryDefault → ¬ ShortDlc s 1 f.dlc →
    exec (.stft1 f) s = .next (s.deliver (.decode (some
      ⟨0x06, "Short term fuel trim, bank 1", "%", BitVec.ofInt 32 (100 * f.a.toNat - 12800), 128⟩))) ∧
    exec (.ltft1 f) s = .next (s.deliver (.decode (some
      ⟨0x07, "Long term fuel trim, bank 1", "%", BitVec.ofInt 32 (100 * f.a.toNat - 12800), 128⟩))) ∧
    (s.config.trimBank2 = true →
      exec (.stft2 f) s = .next (s.deliver (.decode (some
        ⟨0x08, "Short term fuel trim, bank 2", "%", BitVec.ofInt 32 (100 * f.a.toNat - 12800), 128⟩))) ∧
      exec (.ltft2 f) s = .next (s.deliver (.decode (some
        ⟨0x09, "Long term fuel trim, bank 2", "%", BitVec.ofInt 32 (100 * f.a.toNat - 12800), 128⟩))))

/-- `FP`, `MAP`, `VSS`, `BARO` (R102, R103, R105, R113) with the default registry (log entry 3): `3*A` kPa, `A` kPa,
`A` km/h, `A` kPa. -/
def Obligations.PressureAndSpeedEntriesResult : Prop :=
  ∀ (f : DecFields) (s : State), s.config.registry = registryDefault → ¬ ShortDlc s 1 f.dlc →
    exec (.fp f) s = .next (s.deliver (.decode (some
      ⟨0x0A, "Fuel pressure (gauge)", "kPa", BitVec.ofInt 32 (3 * f.a.toNat), 1⟩))) ∧
    exec (.map f) s = .next (s.deliver (.decode (some
      ⟨0x0B, "Intake manifold absolute pressure", "kPa", BitVec.ofInt 32 f.a.toNat, 1⟩))) ∧
    exec (.vss f) s = .next (s.deliver (.decode (some
      ⟨0x0D, "Vehicle speed", "km/h", BitVec.ofInt 32 f.a.toNat, 1⟩))) ∧
    exec (.baro f) s = .next (s.deliver (.decode (some
      ⟨0x33, "Absolute barometric pressure", "kPa", BitVec.ofInt 32 f.a.toNat, 1⟩)))

/-- `RUNTM`, `MILDIST`, `CLRDIST` (R109, R110, R112) with the default registry (log entry 3): `256*A + B`. -/
def Obligations.WordEntriesResult : Prop :=
  ∀ (f : DecFields) (s : State), s.config.registry = registryDefault → ¬ ShortDlc s 2 f.dlc →
    exec (.runtm f) s = .next (s.deliver (.decode (some
      ⟨0x1F, "Run time since engine start", "s", BitVec.ofInt 32 (256 * f.a.toNat + f.b.toNat), 1⟩))) ∧
    exec (.mildist f) s = .next (s.deliver (.decode (some
      ⟨0x21, "Distance travelled with malfunction indicator lamp on", "km",
        BitVec.ofInt 32 (256 * f.a.toNat + f.b.toNat), 1⟩))) ∧
    exec (.clrdist f) s = .next (s.deliver (.decode (some
      ⟨0x31, "Distance travelled since codes cleared", "km", BitVec.ofInt 32 (256 * f.a.toNat + f.b.toNat), 1⟩)))

/-- `RPM`, `MAF`, `VPWR`, `LAMBDA`, `FRATE` (R104, R107, R115, R116, R120) with the default registry (log entry 3):
`(256*A + B) / DEN` with `DEN` 4, 100, 1000, 32768, 20, never reduced. -/
def Obligations.ScaledWordEntriesResult : Prop :=
  ∀ (f : DecFields) (s : State), s.config.registry = registryDefault → ¬ ShortDlc s 2 f.dlc →
    exec (.rpm f) s = .next (s.deliver (.decode (some
      ⟨0x0C, "Engine speed", "rpm", BitVec.ofInt 32 (256 * f.a.toNat + f.b.toNat), 4⟩))) ∧
    exec (.maf f) s = .next (s.deliver (.decode (some
      ⟨0x10, "Mass air flow rate", "g/s", BitVec.ofInt 32 (256 * f.a.toNat + f.b.toNat), 100⟩))) ∧
    exec (.vpwr f) s = .next (s.deliver (.decode (some
      ⟨0x42, "Control module voltage", "V", BitVec.ofInt 32 (256 * f.a.toNat + f.b.toNat), 1000⟩))) ∧
    exec (.lambda f) s = .next (s.deliver (.decode (some
      ⟨0x44, "Commanded equivalence ratio", "ratio", BitVec.ofInt 32 (256 * f.a.toNat + f.b.toNat), 32768⟩))) ∧
    exec (.frate f) s = .next (s.deliver (.decode (some
      ⟨0x5E, "Engine fuel rate", "L/h", BitVec.ofInt 32 (256 * f.a.toNat + f.b.toNat), 20⟩)))

/-- `CATEMP11` (R114) with the default registry (log entry 3): `(256*A + B - 400) / 10` °C. -/
def Obligations.CatalystEntryResult : Prop :=
  ∀ (f : DecFields) (s : State), s.config.registry = registryDefault → ¬ ShortDlc s 2 f.dlc →
    exec (.catemp11 f) s = .next (s.deliver (.decode (some
      ⟨0x3C, "Catalyst temperature, bank 1 sensor 1", "°C",
        BitVec.ofInt 32 (256 * f.a.toNat + f.b.toNat - 400), 10⟩)))

/-- 40_pid_registry.md R94 (which the spec derives from its table): with the default registry, with or without bank 2,
every result any request gets has `-12800 <= num <= 65535` and `1 <= den <= 32768`. -/
def Obligations.DefaultRegistryNumRange : Prop :=
  ∀ (s t : State) (x : Reading), s.config.registry = registryDefault → step s = .next t →
    t.responses = s.responses ++ [.decode (some x)] →
    -12800 ≤ x.num.toInt ∧ x.num.toInt ≤ 65535 ∧ 1 ≤ x.den.toNat ∧ x.den.toNat ≤ 32768

/-- The value rises strictly with the operand, for every admitted entry (40_pid_registry.md R91; 95_test_vectors.md
section 4, check 4, which the spec derives). -/
def Obligations.ValueRisesWithOperand : Prop :=
  ∀ (i j : Instr) (p : Byte) (f g : DecFields) (s : State) (e : PidDefinition) (x y : Reading),
    i.dec? = some (p, f) → j.dec? = some (p, g) → lookup s.config p = some e → e.wellFormed = true →
    exec i s = .next (s.deliver (.decode (some x))) → exec j s = .next (s.deliver (.decode (some y))) →
    rawOperand e.bytes f.a f.b < rawOperand e.bytes g.a g.b → x.value < y.value

/-! ## UNPACK -/

/-- 42_unpack_bitmask.md R157: for every UNPACK request a step answers the list of the pseudocode: an element for each
`i` with `m[31 - i] = 1`, equal to `start_pid + i + 1` without wrap-around, in rising order, and its length. -/
def Obligations.UnpackStepMeetsPseudocode : Prop :=
  ∀ (s : State) (r : Request) (rest : List Request), s.requests = r :: rest → r.op = .unpack →
    ∃ (n : BitVec 6) (l : List PidElement),
      step s = .next ⟨s.config, rest, s.responses ++ [.unpack n l]⟩ ∧
      n.toNat = l.length ∧ l.Pairwise (fun x y => x.toNat < y.toNat) ∧
      ∀ x : PidElement, x ∈ l ↔ ∃ i, i < 32 ∧
        (r.data.b3 ++ r.data.b4 ++ r.data.b5 ++ r.data.b6 : BitVec 32).getLsbD (31 - i) = true ∧
        x.toNat = r.startPid.toNat + i + 1

/-- 42_unpack_bitmask.md R152, byte by byte: KW position `8*j + k` is bit `7 - k` of mask byte `j`, and if it is 1 the PID
`start_pid + 8*j + k + 1` is in the list; `start_pid` itself never is. -/
def Obligations.UnpackElementsOfMaskBytes : Prop :=
  ∀ (f : UnpFields) (s : State), ∃ (n : BitVec 6) (l : List PidElement),
    exec (.unpack f) s = .next (s.deliver (.unpack n l)) ∧
    (∀ x : PidElement, x ∈ l ↔ ∃ k, k < 8 ∧
      ((f.m0.getLsbD (7 - k) = true ∧ x.toNat = f.startPid.toNat + k + 1) ∨
       (f.m1.getLsbD (7 - k) = true ∧ x.toNat = f.startPid.toNat + 8 + k + 1) ∨
       (f.m2.getLsbD (7 - k) = true ∧ x.toNat = f.startPid.toNat + 16 + k + 1) ∨
       (f.m3.getLsbD (7 - k) = true ∧ x.toNat = f.startPid.toNat + 24 + k + 1))) ∧
    ∀ x ∈ l, f.startPid.toNat + 1 ≤ x.toNat ∧ x.toNat ≤ f.startPid.toNat + 32

/-- 42_unpack_bitmask.md R153, R154: the list rises strictly, so no PID appears twice; `count` is its length and the
number of set bits of the mask, `0..32`; and a mask of zeros gives the empty list. -/
def Obligations.UnpackCountsSetBitsInOrder : Prop :=
  ∀ (f : UnpFields) (s : State), ∃ (n : BitVec 6) (l : List PidElement),
    exec (.unpack f) s = .next (s.deliver (.unpack n l)) ∧
    l.Pairwise (fun x y => x.toNat < y.toNat) ∧ n.toNat = l.length ∧ l.length ≤ 32 ∧
    l.length = ((List.range 32).filter (f.m0 ++ f.m1 ++ f.m2 ++ f.m3 : BitVec 32).getLsbD).length ∧
    (f.m0 = 0 → f.m1 = 0 → f.m2 = 0 → f.m3 = 0 → l = [] ∧ n = 0)

/-- 42_unpack_bitmask.md R159 (which the spec derives): UNPACK and `PackMask` are mutual inverses. A rising list of PIDs
inside the window of a block, packed and unpacked by a step, comes back; and the list a step gives for any mask packs to
that mask. `PackMask` is refused outside the window (U9, log entry 18). -/
def Obligations.PackMaskRoundTrip : Prop :=
  (∀ (base : Byte) (qs : List PidElement) (s : State) (r : Request) (rest : List Request),
    qs.Pairwise (fun x y => x.toNat < y.toNat) →
    (∀ q ∈ qs, base.toNat + 1 ≤ q.toNat ∧ q.toNat ≤ base.toNat + 32) →
    ∃ m, packMask qs base = .next m ∧
      (s.requests = r :: rest → r.op = .unpack → r.startPid = base → r.data = maskPayload base m →
        ∃ n, step s = .next ⟨s.config, rest, s.responses ++ [.unpack n qs]⟩)) ∧
  (∀ (base : Byte) (m : BitVec 32) (s : State) (r : Request) (rest : List Request),
    s.requests = r :: rest → r.op = .unpack → r.startPid = base → r.data = maskPayload base m →
    ∃ n l, step s = .next ⟨s.config, rest, s.responses ++ [.unpack n l]⟩ ∧
      packMask l base = .next m) ∧
  ∀ (base : Byte) (qs : List PidElement) (q : PidElement), q ∈ qs →
    (q.toNat < base.toNat + 1 ∨ base.toNat + 32 < q.toNat) → packMask qs base = .refused .pidOutsideWindow

/-- 42_unpack_bitmask.md R160 (which the spec derives): the query PID of the next block, `start_pid + 32`, is in the list
exactly when bit 0 of the last mask byte is set. -/
def Obligations.LastBitStandsForNextBlock : Prop :=
  ∀ (f : UnpFields) (s : State), ∃ (n : BitVec 6) (l : List PidElement),
    exec (.unpack f) s = .next (s.deliver (.unpack n l)) ∧
    ((∃ x ∈ l, x.toNat = f.startPid.toNat + 32) ↔ f.m3.getLsbD 0 = true)

/-- 42_unpack_bitmask.md R156 (the spec's decision D9): the elements range over `1..287`; one exceeds `0xFF` exactly when a
bit with `i >= 255 - start_pid` is set, which needs `start_pid >= 0xE0`. -/
def Obligations.ElementsAboveFFNeedAHighBlock : Prop :=
  ∀ (f : UnpFields) (s : State), ∃ (n : BitVec 6) (l : List PidElement),
    exec (.unpack f) s = .next (s.deliver (.unpack n l)) ∧
    (∀ x ∈ l, 1 ≤ x.toNat ∧ x.toNat ≤ 287) ∧
    ((∃ x ∈ l, 0xFF < x.toNat) ↔
      ∃ i, i < 32 ∧ 255 ≤ f.startPid.toNat + i ∧
        (f.m0 ++ f.m1 ++ f.m2 ++ f.m3 : BitVec 32).getLsbD (31 - i) = true) ∧
    ((∃ x ∈ l, 0xFF < x.toNat) → 0xE0 ≤ f.startPid.toNat)

/-- 42_unpack_bitmask.md R161 (which the spec derives): UNPACK does not consult the registry; its list is the same under
any configuration. -/
def Obligations.UnpackDoesNotConsultRegistry : Prop :=
  ∀ (f : UnpFields) (s t : State) (g : Config), exec (.unpack f) s = .next t →
    exec (.unpack f) { s with config := g } = .next { t with config := g }

/-! ## The whole machine -/

/-- Every step goes on, with no fault and no refusal (60_exceptions.md R170); a step with a request gives exactly one
response (41_decode_frame.md R130, 42_unpack_bitmask.md R150); a step without one changes nothing (60_exceptions.md R180;
log entry 9, the model's reading); and every instruction gives exactly one response. -/
def Obligations.EveryRequestGetsOneResponse : Prop :=
  (∀ s : State, StepGoesOn s) ∧
  (∀ s : State, s.requests = [] → step s = .next s) ∧
  (∀ (s : State) (r : Request) (rest : List Request), s.requests = r :: rest →
    ∃ x, step s = .next ⟨s.config, rest, s.responses ++ [x]⟩) ∧
  ∀ (i : Instr) (s : State), ∃ x, exec i s = .next { s with responses := s.responses ++ [x] }

/-- The frame of every instruction of the table (20_memory.md R47, which the spec derives): the configuration and every
registry slot, the requests pending and every byte of their payload spaces, and the responses already delivered are
unchanged; one response is added, of UNPACK's form for UNPACK and of DECODE's form for every other. -/
def Obligations.InstructionFrame : Prop :=
  ∀ (i : Instr) (s t : State), exec i s = .next t →
    t.config = s.config ∧ (∀ p : Byte, lookup t.config p = lookup s.config p) ∧ t.requests = s.requests ∧
    (∀ (k : Nat) (r r' : Request), t.requests[k]? = some r → s.requests[k]? = some r' →
      ∀ a : Nat, Memory.read (payloadSpace r.data) a = Memory.read (payloadSpace r'.data) a) ∧
    ∃ x, t.responses = s.responses ++ [x] ∧ ((∃ f, i = .unpack f) ↔ found x = none)

/-- 10_state.md R22, R28 (R22 by the spec's derivation): no operation of the block and no event of its host interface
changes the configuration, the registry in it. -/
def Obligations.ConfigurationIsNeverWritten : Prop :=
  (∀ s t : State, step s = .next t → t.config = s.config) ∧
  (∀ (r : Request) (s t : State), present r s = .next t → t.config = s.config) ∧
  (∀ (s t : State) (x : Response), takeResponse s = some (x, t) → t.config = s.config) ∧
  ∀ s : State, (applyReset s).config = s.config

/-- 30_encoding.md R72, 41_decode_frame.md R139, 42_unpack_bitmask.md R155 (which the spec derives). Two DECODE requests
that agree on the window test, on `data[1]` to `data[3]`, on `data[4]` where the entry has two bytes, and on `dlc` where
the policy is `STRICT`, get the same step; so do two UNPACK requests that agree on `start_pid` and `data[3]` to
`data[6]`. -/
def Obligations.UnreadFieldsDoNotMatter : Prop :=
  (∀ (s : State) (r r' : Request) (rest : List Request), r.op = .decode → r'.op = .decode →
    ((0x7E8 ≤ r.id.toNat ∧ r.id.toNat ≤ 0x7EF) ↔ (0x7E8 ≤ r'.id.toNat ∧ r'.id.toNat ≤ 0x7EF)) →
    pay r.data 1 = pay r'.data 1 → pay r.data 2 = pay r'.data 2 → pay r.data 3 = pay r'.data 3 →
    (∀ e, lookup s.config (pay r.data 2) = some e → e.bytes = .two → pay r.data 4 = pay r'.data 4) →
    (s.config.dlcPolicy = .strict → r.dlc = r'.dlc) →
    step { s with requests := r :: rest } = step { s with requests := r' :: rest }) ∧
  ∀ (s : State) (r r' : Request) (rest : List Request), r.op = .unpack → r'.op = .unpack → r.startPid = r'.startPid →
    pay r.data 3 = pay r'.data 3 → pay r.data 4 = pay r'.data 4 → pay r.data 5 = pay r'.data 5 →
    pay r.data 6 = pay r'.data 6 →
    step { s with requests := r :: rest } = step { s with requests := r' :: rest }

/-- 10_state.md R20, 41_decode_frame.md R140 (which the spec derives): a response is a function of its request and the
configuration alone. Two machines of the same configuration, whatever they served before and whatever still waits, give
the same response to the same request. -/
def Obligations.ResponseDependsOnRequestAndConfigAlone : Prop :=
  ∀ (s s' : State) (r : Request) (rest rest' : List Request), s.config = s'.config → s.requests = r :: rest →
    s'.requests = r :: rest' →
    ∃ x, step s = .next ⟨s.config, rest, s.responses ++ [x]⟩ ∧
      step s' = .next ⟨s'.config, rest', s'.responses ++ [x]⟩

/-- 20_memory.md R50 (the spec's decision D16): from every state, as many steps as there are requests serve them all,
each to completion and in order, and response `k` is the one the block gives to request `k` alone. -/
def Obligations.RunServesRequestsInOrder : Prop :=
  ∀ s : State, ∃ xs : List Response,
    xs.length = s.requests.length ∧
    Host.Core.run Sys2Proof.core s.requests.length s = .next ⟨s.config, [], s.responses ++ xs⟩ ∧
    ∀ (k : Nat) (r : Request) (x : Response), s.requests[k]? = some r → xs[k]? = some x →
      step ⟨s.config, [r], []⟩ = .next ⟨s.config, [], [x]⟩

/-- The invariant of the machine: from every state with an admitted configuration whose pending responses are legal, a
step gives such a state (40_pid_registry.md R94, 41_decode_frame.md R136, 42_unpack_bitmask.md R153). -/
def Obligations.StepKeepsInvariant : Prop := ∀ s t : State, s.Inv → step s = .next t → t.Inv

/-- The invariant holds right after reset. -/
def Obligations.ResetMeetsInvariant : Prop := State.reset.Inv

/-- 70_reset_and_hazards.md R193, 42_unpack_bitmask.md R156 (the refusals are the model's boundary, log entry 5): where
the host presents only what the boundary admits, every element the block delivers names a PID; steps and presentations
keep that. -/
def Obligations.AdmittedRequestsNamePids : Prop :=
  (∀ s t : State, s.Admitted → step s = .next t → t.Admitted) ∧
  ∀ (r : Request) (s t : State), s.Admitted → present r s = .next t → t.Admitted

/-- 30_encoding.md R61 with 93_implementation_defined.md U2, U4, U5 (the model's boundary, log entry 5): a request is
refused for `ts < 0`, else for `dlc > 8`, else, for UNPACK, for an element above `0xFF`; any other request joins the
queue behind those presented before it. -/
def Obligations.PresentRefusesExactlyIllFormed : Prop :=
  ∀ (r : Request) (s : State),
    (r.ts.toInt < 0 → present r s = .refused .negativeTimeStamp) ∧
    (0 ≤ r.ts.toInt → 8 < r.dlc.toNat → present r s = .refused .dlcAboveEight) ∧
    (0 ≤ r.ts.toInt → r.dlc.toNat ≤ 8 → r.op = .unpack →
      (∃ i, i < 32 ∧ (r.data.b3 ++ r.data.b4 ++ r.data.b5 ++ r.data.b6 : BitVec 32).getLsbD (31 - i) = true ∧
        0xFF < r.startPid.toNat + i + 1) →
      present r s = .refused .elementAboveFF) ∧
    (0 ≤ r.ts.toInt → r.dlc.toNat ≤ 8 →
      (r.op = .unpack → ∀ i, i < 32 →
        (r.data.b3 ++ r.data.b4 ++ r.data.b5 ++ r.data.b6 : BitVec 32).getLsbD (31 - i) = true →
        r.startPid.toNat + i + 1 ≤ 0xFF) →
      present r s = .next { s with requests := s.requests ++ [r] })

/-- The instruction of a request the boundary admits is well-formed (30_encoding.md R61, 92_eei_decisions.md D9; log entry
5). -/
def Obligations.AdmittedRequestDecodesWellFormed : Prop :=
  ∀ (r : Request) (i : Instr), r.wellFormed = true → decode r.word = .ok i → i.wellFormed = true
end

