-- ==== Sys2Proof/Laws/Decode.lean ====
section
/-! SUPPORT. The layout of the request word: each field of a packed word is the component packed there, and a word is
the packing of its fields; the row of a PID code. -/

namespace Sys2Proof

/-- The fields above the payload, read from the high part of a packed word. -/
theorem extract_packWord_high (op : Op) (sp : Byte) (id : CanId) (dlc : Dlc) (d : Payload) (start len : Nat)
    (h : 64 ≤ start) :
    BitVec.extractLsb' start len (packWord op sp id dlc d) =
      BitVec.extractLsb' (start - 64) len (op.bit ++ sp ++ id ++ dlc) :=
  BitVec.extractLsb'_append_eq_of_le (xhi := op.bit ++ sp ++ id ++ dlc) (xlo := d.word) h

/-- The payload bits, read from the low part of a packed word. -/
theorem extract_packWord_low (op : Op) (sp : Byte) (id : CanId) (dlc : Dlc) (d : Payload) (start len : Nat)
    (h : start + len ≤ 64) :
    BitVec.extractLsb' start len (packWord op sp id dlc d) = BitVec.extractLsb' start len d.word :=
  BitVec.extractLsb'_append_eq_of_add_le (xhi := op.bit ++ sp ++ id ++ dlc) (xlo := d.word) h

section

variable (op : Op) (sp : Byte) (id : CanId) (dlc : Dlc) (d : Payload)

@[simp] theorem op_packWord : RequestWord.op (packWord op sp id dlc d) = op := by
  have h : (packWord op sp id dlc d).getLsbD 105 = (BitVec.extractLsb' 105 1 (packWord op sp id dlc d)).getLsbD 0 := by
    simp
  rw [RequestWord.op, h, extract_packWord_high _ _ _ _ _ _ _ (by decide),
    BitVec.extractLsb'_append_eq_of_le (by decide), BitVec.extractLsb'_append_eq_of_le (by decide),
    BitVec.extractLsb'_append_eq_of_le (by decide)]
  cases op <;> rfl

@[simp] theorem startPid_packWord : RequestWord.startPid (packWord op sp id dlc d) = sp := by
  rw [RequestWord.startPid, extract_packWord_high _ _ _ _ _ _ _ (by decide),
    BitVec.extractLsb'_append_eq_of_le (by decide), BitVec.extractLsb'_append_eq_of_le (by decide)]
  exact BitVec.extractLsb'_append_eq_right

@[simp] theorem id_packWord : RequestWord.id (packWord op sp id dlc d) = id := by
  rw [RequestWord.id, extract_packWord_high _ _ _ _ _ _ _ (by decide),
    BitVec.extractLsb'_append_eq_of_le (by decide)]
  exact BitVec.extractLsb'_append_eq_right

@[simp] theorem dlc_packWord : RequestWord.dlc (packWord op sp id dlc d) = dlc := by
  rw [RequestWord.dlc, extract_packWord_high _ _ _ _ _ _ _ (by decide)]
  exact BitVec.extractLsb'_append_eq_right

end

/-- The payload bytes of the 64 payload bits. -/
theorem extract_payloadWord (d : Payload) :
    (⟨d.word.extractLsb' 56 8, d.word.extractLsb' 48 8, d.word.extractLsb' 40 8, d.word.extractLsb' 32 8,
      d.word.extractLsb' 24 8, d.word.extractLsb' 16 8, d.word.extractLsb' 8 8, d.word.extractLsb' 0 8⟩ : Payload) = d := by
  obtain ⟨b0, b1, b2, b3, b4, b5, b6, b7⟩ := d
  have hi : ∀ {n : Nat} (x : BitVec n) (y : Byte) (s : Nat), 8 ≤ s →
      BitVec.extractLsb' s 8 (x ++ y) = BitVec.extractLsb' (s - 8) 8 x := fun x y s h =>
    BitVec.extractLsb'_append_eq_of_le h
  have lo : ∀ {n : Nat} (x : BitVec n) (y : Byte), BitVec.extractLsb' 0 8 (x ++ y) = y := fun x y =>
    BitVec.extractLsb'_append_eq_right
  have self : ∀ x : Byte, BitVec.extractLsb' 0 8 x = x := fun x => by simp
  simp only [Payload.word, Payload.mk.injEq]
  refine ⟨?_, ?_, ?_, ?_, ?_, ?_, ?_, ?_⟩
  · rw [hi _ _ _ (by decide), hi _ _ _ (by decide), hi _ _ _ (by decide), hi _ _ _ (by decide), hi _ _ _ (by decide),
      hi _ _ _ (by decide), hi _ _ _ (by decide)]
    exact self b0
  · rw [hi _ _ _ (by decide), hi _ _ _ (by decide), hi _ _ _ (by decide), hi _ _ _ (by decide), hi _ _ _ (by decide),
      hi _ _ _ (by decide)]
    exact lo _ _
  · rw [hi _ _ _ (by decide), hi _ _ _ (by decide), hi _ _ _ (by decide), hi _ _ _ (by decide), hi _ _ _ (by decide)]
    exact lo _ _
  · rw [hi _ _ _ (by decide), hi _ _ _ (by decide), hi _ _ _ (by decide), hi _ _ _ (by decide)]
    exact lo _ _
  · rw [hi _ _ _ (by decide), hi _ _ _ (by decide), hi _ _ _ (by decide)]
    exact lo _ _
  · rw [hi _ _ _ (by decide), hi _ _ _ (by decide)]
    exact lo _ _
  · rw [hi _ _ _ (by decide)]
    exact lo _ _
  · exact lo _ _

@[simp] theorem data_packWord (op : Op) (sp : Byte) (id : CanId) (dlc : Dlc) (d : Payload) :
    RequestWord.data (packWord op sp id dlc d) = d := by
  refine Eq.trans ?_ (extract_payloadWord d)
  simp only [RequestWord.data, Payload.mk.injEq]
  refine ⟨?_, ?_, ?_, ?_, ?_, ?_, ?_, ?_⟩ <;> exact extract_packWord_low _ _ _ _ _ _ _ (by decide)

/-- Neighbouring fields of a word make one field. -/
theorem append_fields {w : Nat} (x : BitVec w) (s n k : Nat) :
    x.extractLsb' (s + k) n ++ x.extractLsb' s k = x.extractLsb' s (n + k) :=
  BitVec.extractLsb'_append_extractLsb'_eq_extractLsb' rfl

theorem bit_op (w : RequestWord) : w.op.bit = w.extractLsb' 105 1 := by
  have h : w.extractLsb' 105 1 = BitVec.ofBool (w.getLsbD 105) := by
    ext i hi
    obtain rfl : i = 0 := by omega
    simp
  rw [h, RequestWord.op]
  cases w.getLsbD 105 <;> rfl

/-- The payload bits of a word. -/
theorem word_data (w : RequestWord) : (RequestWord.data w).word = w.extractLsb' 0 64 := by
  simp only [RequestWord.data, Payload.word]
  rw [append_fields w 48 8 8, append_fields w 40 16 8, append_fields w 32 24 8, append_fields w 24 32 8,
    append_fields w 16 40 8, append_fields w 8 48 8]
  exact append_fields w 0 56 8

/-- A word is the packing of its fields: no bit is dropped. -/
theorem packWord_fields (w : RequestWord) : packWord w.op w.startPid w.id w.dlc w.data = w := by
  rw [packWord, word_data, bit_op, RequestWord.startPid, RequestWord.id, RequestWord.dlc]
  rw [append_fields w 97 1 8, append_fields w 68 9 29, append_fields w 64 38 4]
  refine (append_fields w 0 42 64).trans ?_
  exact BitVec.extractLsb'_eq_self

/-- The word of a request and the request of a word, `ts` aside. -/
theorem ofWord_word (r : Request) : Request.ofWord r.word = { r with ts := 0 } := by
  simp [Request.ofWord, Request.word]

theorem word_ofWord (w : RequestWord) : (Request.ofWord w).word = w := packWord_fields w

/-- The row of a code has that code and the fields given. -/
theorem dec_of_rowOfPid {p : Byte} {f : DecFields} {i : Instr} (h : rowOfPid p f = some i) :
    i.dec? = some (p, f) := by
  have hk : p = BitVec.ofNat 8 p.toNat := by simp
  unfold rowOfPid at h
  split at h <;>
    first
    | (cases h; done)
    | (next hp =>
        cases h
        simp only [Instr.dec?, Option.some.injEq, Prod.mk.injEq, and_true]
        exact (hk.trans (by rw [hp]; rfl)).symm)

/-- The rows of the table are those of `tablePids` (30_encoding.md R67). -/
theorem rowOfPid_isSome (p : Byte) (f : DecFields) : (rowOfPid p f).isSome = tablePids.contains p := by
  have hf : (rowOfPid p f).isSome = (rowOfPid p ⟨0, 0, 0, 0, 0, 0, 0, 0, 0⟩).isSome := by
    unfold rowOfPid
    split <;> simp_all
  rw [hf]
  clear hf f
  revert p
  decide

/-- The identifiers of the window are those with `id[28:3] = 0xFD` (30_encoding.md R65). -/
theorem idInWindow_append (k : BitVec 3) : idInWindow (idHigh ++ k) = true := by
  revert k
  decide

/-- The window test as bounds on the number (41_decode_frame.md R131). -/
theorem idInWindow_iff (id : CanId) : idInWindow id = true ↔ 0x7E8 ≤ id.toNat ∧ id.toNat ≤ 0x7EF := by
  simp only [idInWindow, Bool.and_eq_true, decide_eq_true_eq]
  exact Iff.rfl

/-- The window test as fixed high bits (30_encoding.md R67). -/
theorem idInWindow_iff_high (id : CanId) : idInWindow id = true ↔ id.extractLsb' 3 26 = idHigh := by
  rw [idInWindow_iff, ← BitVec.toNat_inj, BitVec.extractLsb'_toNat, Nat.shiftRight_eq_div_pow]
  have h1 := id.isLt
  have h2 : idHigh.toNat = 253 := rfl
  rw [h2]
  generalize id.toNat = n at *
  omega

/-- An identifier of the window is its fixed high bits and its low three. -/
theorem append_of_idInWindow {id : CanId} (h : idInWindow id = true) : idHigh ++ id.extractLsb' 0 3 = id := by
  rw [← (idInWindow_iff_high id).mp h]
  exact (append_fields id 0 26 3).trans BitVec.extractLsb'_eq_self

/-- Packing is injective: its five components can be read back. -/
theorem packWord_inj {o o' : Op} {s s' : Byte} {i i' : CanId} {l l' : Dlc} {d d' : Payload}
    (h : packWord o s i l d = packWord o' s' i' l' d') : o = o' ∧ s = s' ∧ i = i' ∧ l = l' ∧ d = d' := by
  refine ⟨?_, ?_, ?_, ?_, ?_⟩
  · simpa using congrArg RequestWord.op h
  · simpa using congrArg RequestWord.startPid h
  · simpa using congrArg RequestWord.id h
  · simpa using congrArg RequestWord.dlc h
  · simpa using congrArg RequestWord.data h

section

variable (r : Request)

@[simp] theorem op_word : RequestWord.op r.word = r.op := op_packWord ..

@[simp] theorem startPid_word : RequestWord.startPid r.word = r.startPid := startPid_packWord ..

@[simp] theorem id_word : RequestWord.id r.word = r.id := id_packWord ..

@[simp] theorem dlc_word : RequestWord.dlc r.word = r.dlc := dlc_packWord ..

@[simp] theorem data_word : RequestWord.data r.word = r.data := data_packWord ..

end

/-- The word of a DEC instruction is that of its code and fields. -/
theorem encode_of_dec {i : Instr} {p : Byte} {f : DecFields} (h : i.dec? = some (p, f)) : encode i = encodeDec p f := by
  cases i <;> cases h <;> rfl

/-- A DEC instruction is the row of its code. -/
theorem rowOfPid_of_dec {i : Instr} {p : Byte} {f : DecFields} (h : i.dec? = some (p, f)) : rowOfPid p f = some i := by
  cases i <;> cases h <;> rfl

/-- An instruction is a DEC row or UNPACK. -/
theorem instr_cases (i : Instr) : (∃ p f, i.dec? = some (p, f)) ∨ ∃ f, i = .unpack f := by
  cases i <;> first | exact .inr ⟨_, rfl⟩ | exact .inl ⟨_, _, rfl⟩

/-- Everything a successful decode says about its word. -/
theorem decode_ok {w : RequestWord} {i : Instr} (h : decode w = .ok i) :
    (w.op = .unpack ∧ i = .unpack (unpFields w)) ∨
    (w.op = .decode ∧ idInWindow w.id = true ∧ w.data.b1 = marker ∧ rowOfPid w.data.b2 (decFields w) = some i) := by
  unfold decode at h
  split at h
  · next ho =>
    simp only [Except.ok.injEq] at h
    exact .inl ⟨ho, h.symm⟩
  · next ho =>
    right
    split at h
    · cases h
    · next hid =>
      split at h
      · cases h
      · next hm =>
        split at h
        · next hr =>
          cases h
          exact ⟨ho, by simpa using hid, by simpa using hm, hr⟩
        · cases h

theorem decode_of_unpack {w : RequestWord} (h : w.op = .unpack) : decode w = .ok (.unpack (unpFields w)) := by
  unfold decode
  rw [h]

theorem decode_of_row {w : RequestWord} {i : Instr} (h0 : w.op = .decode) (h1 : idInWindow w.id = true)
    (h2 : w.data.b1 = marker) (h3 : rowOfPid w.data.b2 (decFields w) = some i) : decode w = .ok i := by
  unfold decode
  rw [h0]
  simp [h1, h2, h3]

/-- The free fields of an encoded DEC word. -/
theorem decFields_encodeDec (p : Byte) (f : DecFields) : decFields (encodeDec p f) = f := by
  have h : (idHigh ++ f.idLow).extractLsb' 0 3 = f.idLow := BitVec.extractLsb'_append_eq_right
  simp only [decFields, encodeDec, startPid_packWord, id_packWord, dlc_packWord, data_packWord]
  rw [h]

/-- The free fields of an encoded UNP word. -/
theorem unpFields_encodeUnp (f : UnpFields) : unpFields (encodeUnp f) = f := by
  simp [unpFields, encodeUnp]

end Sys2Proof
end

