-- ==== Sys2Proof/Laws/Memory.lean ====
section
/-! SUPPORT. The two read-only spaces: the payload space has its canonical form, `pay` reads it, and a registry slot is
present exactly where it is listed. -/

namespace Sys2Proof.Machine

@[simp] theorem payloadSpace_wf (d : Payload) : Memory.wf (payloadSpace d) = true := rfl

/-- `Pay(k)` is the read of one byte of the payload space (00_scope.md R11). -/
theorem read_payloadSpace (d : Payload) (k : Fin 8) : Memory.read (payloadSpace d) k.val = some (pay d k) := by
  fin_cases k <;> rfl

/-- No cell exists at an offset above 7 (20_memory.md R40). -/
theorem read_payloadSpace_none (d : Payload) {k : Nat} (h : 8 ≤ k) : Memory.read (payloadSpace d) k = none := by
  obtain ⟨j, rfl⟩ : ∃ j, k = j + 8 := ⟨k - 8, by omega⟩
  simp [payloadSpace, Memory.read]

@[simp] theorem slot_nil (p : Byte) : slot [] p = none := rfl

theorem slot_cons (c : Byte × PidDefinition) (g : Registry) (p : Byte) :
    slot (c :: g) p = if c.1 = p then some c.2 else slot g p := rfl

/-- A slot that is present is one of the listed ones. -/
theorem mem_of_slot {g : Registry} {p : Byte} {e : PidDefinition} (h : slot g p = some e) : (p, e) ∈ g := by
  induction g with
  | nil => simp at h
  | cons c g ih =>
    rw [slot_cons] at h
    split at h
    · next hc =>
      obtain ⟨q, e'⟩ := c
      simp only [Option.some.injEq] at h
      subst h; subst hc
      exact List.mem_cons_self
    · exact List.mem_cons_of_mem _ (ih h)

/-- Every entry of a well-formed registry is admitted. -/
theorem wellFormed_of_mem {g : Registry} (hg : Registry.wellFormed g = true) {c : Byte × PidDefinition} (hc : c ∈ g) :
    c.2.wellFormed = true := by
  induction g with
  | nil => cases hc
  | cons a g ih =>
    cases g with
    | nil =>
      simp only [List.mem_singleton] at hc
      subst hc
      exact hg
    | cons b g =>
      simp only [Registry.wellFormed, Bool.and_eq_true] at hg
      rcases List.mem_cons.mp hc with rfl | hc
      · exact hg.1.2
      · exact ih hg.2 hc

/-- The bank-2 rows are admitted. -/
theorem bank2_wellFormed : Registry.wellFormed registryBank2 = true := by decide

theorem registryDefault_wellFormed : Registry.wellFormed registryDefault = true := by decide

/-- Where `lookup` finds its entry. -/
theorem lookup_cases {c : Config} {p : Byte} {e : PidDefinition} (h : lookup c p = some e) :
    slot c.registry p = some e ∨
      (slot c.registry p = none ∧ c.trimBank2 = true ∧ slot registryBank2 p = some e) := by
  unfold lookup at h
  split at h
  · next hs => exact .inl (hs.trans h)
  · next hs =>
    split at h
    · next ht => exact .inr ⟨hs, ht, h⟩
    · cases h

/-- An entry found in an admitted configuration is admitted. -/
theorem lookup_wellFormed {c : Config} (hc : c.wellFormed = true) {p : Byte} {e : PidDefinition}
    (h : lookup c p = some e) : e.wellFormed = true := by
  rcases lookup_cases h with h | ⟨-, -, h⟩
  · exact wellFormed_of_mem hc (mem_of_slot h)
  · exact wellFormed_of_mem bank2_wellFormed (mem_of_slot h)

end Sys2Proof.Machine
end

