-- ==== Sys2Proof/Laws/Operands.lean ====
section
/-! SUPPORT. Spec lemmas of the operand forms: the range of `raw`, the two result fields, the elements of a mask. -/

namespace Sys2Proof.Machine

theorem rawOperand_le (n : OperandBytes) (a b : Byte) : rawOperand n a b ≤ rawMax n := by
  have ha := a.isLt
  have hb := b.isLt
  cases n <;> simp only [rawOperand, rawMax] <;> omega

theorem rawMax_le (n : OperandBytes) : rawMax n ≤ 65535 := by
  cases n <;> decide

/-- An integer in the field's range is carried exactly (10_state.md R24). -/
theorem numField_toInt {n : Int} (h1 : -2147483648 ≤ n) (h2 : n ≤ 2147483647) : (numField n).toInt = n := by
  rw [numField, if_pos ⟨h1, h2⟩, BitVec.toInt_ofInt]
  apply Int.bmod_eq_of_le <;> omega

theorem denField_toNat {n : Nat} (h1 : 1 ≤ n) (h2 : n ≤ 65535) : (denField n).toNat = n := by
  rw [denField, if_pos ⟨h1, h2⟩, BitVec.toNat_ofNat]
  omega

/-- The numerator of an admitted entry fits its field at every operand. -/
theorem numerator_fits {e : PidDefinition} (he : e.wellFormed = true) {raw : Nat} (hr : raw ≤ 65535) :
    -2147483648 ≤ numerator e raw ∧ numerator e raw ≤ 2147483647 := by
  simp only [PidDefinition.wellFormed, Bool.and_eq_true, decide_eq_true_eq] at he
  obtain ⟨⟨⟨⟨⟨-, -⟩, -⟩, -⟩, h1⟩, h2⟩ := he
  simp only [numerator] at *
  have h0 : (0 : Int) ≤ (e.mul : Int) * (raw : Int) := by positivity
  have h3 : (e.mul : Int) * (raw : Int) ≤ (e.mul : Int) * ((65535 : Nat) : Int) := by
    gcongr
  omega

/-- The denominator of an admitted entry fits its field. -/
theorem den_fits {e : PidDefinition} (he : e.wellFormed = true) : 1 ≤ e.den ∧ e.den ≤ 65535 := by
  simp only [PidDefinition.wellFormed, Bool.and_eq_true, decide_eq_true_eq] at he
  omega

/-- The 9-bit sum of R156 does not wrap. -/
theorem elementAt_toNat (start : Byte) {i : Nat} (h : i < 32) : (elementAt start i).toNat = start.toNat + i + 1 := by
  have := start.isLt
  simp only [elementAt, BitVec.toNat_add, BitVec.toNat_setWidth, BitVec.toNat_ofNat]
  omega

theorem mem_positions {i : Nat} : i ∈ positions ↔ i < 32 := List.mem_range

/-- The elements are those of the set positions (42_unpack_bitmask.md R152). -/
theorem mem_elements {start : Byte} {m : BitVec 32} {x : PidElement} :
    x ∈ elements start m ↔ ∃ i, i < 32 ∧ positionSet m i = true ∧ elementAt start i = x := by
  simp [elements, mem_positions, and_assoc]

theorem elements_length (start : Byte) (m : BitVec 32) : (elements start m).length = positions.countP (positionSet m) := by
  simp [elements, List.countP_eq_length_filter]

theorem elements_length_le (start : Byte) (m : BitVec 32) : (elements start m).length ≤ 32 := by
  rw [elements_length]
  exact (List.countP_le_length).trans (by decide)

/-- The list rises strictly (R153). -/
theorem elements_rising (start : Byte) (m : BitVec 32) :
    (elements start m).Pairwise (fun x y => x.toNat < y.toNat) := by
  have hp : (positions.filter (positionSet m)).Pairwise (· < ·) :=
    (List.pairwise_lt_range (n := 32)).filter _
  rw [elements, List.pairwise_map]
  refine hp.imp_of_mem ?_
  intro i j hi hj hij
  have hi' : i < 32 := mem_positions.mp (List.mem_filter.mp hi).1
  have hj' : j < 32 := mem_positions.mp (List.mem_filter.mp hj).1
  rw [elementAt_toNat start hi', elementAt_toNat start hj']
  omega

/-- The elements, by their numbers (42_unpack_bitmask.md R157). -/
theorem mem_elements_iff {start : Byte} {m : BitVec 32} {x : PidElement} :
    x ∈ elements start m ↔ ∃ i, i < 32 ∧ m.getLsbD (31 - i) = true ∧ x.toNat = start.toNat + i + 1 := by
  rw [mem_elements]
  constructor
  · rintro ⟨i, h1, h2, rfl⟩
    exact ⟨i, h1, h2, elementAt_toNat _ h1⟩
  · rintro ⟨i, h1, h2, h3⟩
    exact ⟨i, h1, h2, BitVec.eq_of_toNat_eq (by rw [elementAt_toNat _ h1, h3])⟩

/-- The 6-bit count holds the length of the list. -/
theorem count_toNat (start : Byte) (m : BitVec 32) :
    (BitVec.ofNat 6 (elements start m).length).toNat = (elements start m).length := by
  have := elements_length_le start m
  rw [BitVec.toNat_ofNat]
  omega

/-- A bit of the mask, by the byte it stands in (R151). -/
theorem assembleMask_getLsbD (m0 m1 m2 m3 : Byte) (i : Nat) :
    (assembleMask m0 m1 m2 m3).getLsbD i =
      if i < 8 then m3.getLsbD i else if i < 16 then m2.getLsbD (i - 8)
      else if i < 24 then m1.getLsbD (i - 16) else m0.getLsbD (i - 24) := by
  have h : (assembleMask m0 m1 m2 m3).getLsbD i = ((m0 ++ m1 ++ m2) ++ m3).getLsbD i := rfl
  rw [h, BitVec.getLsbD_append, BitVec.getLsbD_append, BitVec.getLsbD_append]
  have e1 : i - 8 - 8 = i - 16 := by omega
  have e2 : i - 16 - 8 = i - 24 := by omega
  have h1 : i - 8 < 8 ↔ i < 16 := by omega
  have h2 : i - 16 < 8 ↔ i < 24 := by omega
  rw [e1, e2]
  simp only [h1, h2]

end Sys2Proof.Machine
end

