-- ==== Sys2Proof/Laws/State.lean ====
section
/-! SUPPORT. One lemma per field per update of State. -/

namespace Sys2Proof.Machine

@[simp] theorem deliver_config (s : State) (x : Response) : (s.deliver x).config = s.config := rfl

@[simp] theorem deliver_requests (s : State) (x : Response) : (s.deliver x).requests = s.requests := rfl

@[simp] theorem deliver_responses (s : State) (x : Response) : (s.deliver x).responses = s.responses ++ [x] := rfl

@[simp] theorem applyReset_config (s : State) : (applyReset s).config = s.config := rfl

@[simp] theorem applyReset_requests (s : State) : (applyReset s).requests = [] := rfl

@[simp] theorem applyReset_responses (s : State) : (applyReset s).responses = [] := rfl

@[simp] theorem withFetchWord_config (s : State) (n w : Nat) : (s.withFetchWord n w).config = s.config := rfl

@[simp] theorem withFetchWord_requests (s : State) (n w : Nat) :
    (s.withFetchWord n w).requests = Request.ofWord (BitVec.ofNat 106 w) :: s.requests := rfl

@[simp] theorem withFetchWord_responses (s : State) (n w : Nat) : (s.withFetchWord n w).responses = s.responses := rfl

@[simp] theorem reset_config : State.reset.config = configDefault := rfl

@[simp] theorem reset_requests : State.reset.requests = [] := rfl

@[simp] theorem reset_responses : State.reset.responses = [] := rfl

/-- Two updates in a row deliver in their order. -/
theorem deliver_deliver (s : State) (x y : Response) :
    ((s.deliver x).deliver y).responses = s.responses ++ [x, y] := by
  simp

theorem takeRequest_none {s : State} : takeRequest s = none ↔ s.requests = [] := by
  unfold takeRequest
  cases h : s.requests <;> simp

theorem takeRequest_some {s t : State} {r : Request} :
    takeRequest s = some (r, t) ↔ ∃ rest, s.requests = r :: rest ∧ t = { s with requests := rest } := by
  unfold takeRequest
  cases h : s.requests with
  | nil => simp
  | cons q rest =>
    simp only [Option.some.injEq, Prod.mk.injEq, List.cons.injEq]
    constructor
    · rintro ⟨rfl, rfl⟩
      exact ⟨rest, ⟨rfl, rfl⟩, rfl⟩
    · rintro ⟨rest', ⟨rfl, rfl⟩, rfl⟩
      exact ⟨rfl, rfl⟩

end Sys2Proof.Machine
end

