-- ==== Sys2Proof/Laws/Ops.lean ====
section
/-! SUPPORT. One spec lemma per shared operation, and what `exec` and `step` can do. -/

namespace Sys2Proof.Machine

theorem markerMatches_iff (b : Byte) : markerMatches b = true ↔ b = marker := by
  simp [markerMatches]

/-- Everything DECODE from step 3 on can answer. -/
theorem decodeEntry_cases (g : Config) (p : Byte) (dlc : Dlc) (a b c d : Byte) :
    (lookup g p = none ∧ decodeEntry g p dlc a b c d = .error .pid) ∨
    (∃ e, lookup g p = some e ∧ dlcTooShort g.dlcPolicy dlc e.bytes = true ∧
      decodeEntry g p dlc a b c d = .error .dlc) ∨
    (∃ e, lookup g p = some e ∧ dlcTooShort g.dlcPolicy dlc e.bytes = false ∧
      decodeEntry g p dlc a b c d = .ok (buildReading e p a b c d)) := by
  unfold decodeEntry
  cases hl : lookup g p with
  | none => exact .inl ⟨rfl, rfl⟩
  | some e =>
    cases ht : dlcTooShort g.dlcPolicy dlc e.bytes with
    | true => exact .inr (.inl ⟨e, rfl, ht, by simp [ht]⟩)
    | false => exact .inr (.inr ⟨e, rfl, ht, by simp [ht]⟩)

/-- A result of an admitted configuration is legal. -/
theorem buildReading_legal {g : Config} (hg : g.wellFormed = true) {p : Byte} {e : PidDefinition}
    (h : lookup g p = some e) (a b c d : Byte) : (buildReading e p a b c d).Legal g := by
  have he := lookup_wellFormed hg h
  have hr := rawOperand_le e.bytes a b
  have hf := numerator_fits he (hr.trans (rawMax_le _))
  have hd := den_fits he
  exact ⟨e, h, rfl, rfl, denField_toNat hd.1 hd.2, _, hr, numField_toInt hf.1 hf.2⟩

/-- Every response of DECODE is legal. -/
theorem answer_decodeEntry_legal {g : Config} (hg : g.wellFormed = true) (p : Byte) (dlc : Dlc) (a b c d : Byte) :
    (answer (decodeEntry g p dlc a b c d)).Legal g := by
  rcases decodeEntry_cases g p dlc a b c d with ⟨-, h⟩ | ⟨e, -, -, h⟩ | ⟨e, hl, -, h⟩ <;> rw [h]
  · trivial
  · trivial
  · exact buildReading_legal hg hl a b c d

/-- `decodeFrame` past its first two tests. -/
theorem decodeFrame_of_tests {g : Config} {r : Request} (h1 : idInWindow r.id = true) (h2 : r.data.b1 = marker) :
    decodeFrame g r = decodeEntry g r.data.b2 r.dlc r.data.b3 r.data.b4 r.data.b5 r.data.b6 := by
  have h3 : markerMatches (pay r.data 1) = true := (markerMatches_iff _).mpr h2
  simp [decodeFrame, h1, h3]
  rfl

theorem answer_decodeFrame_legal {g : Config} (hg : g.wellFormed = true) (r : Request) :
    (answer (decodeFrame g r)).Legal g := by
  unfold decodeFrame
  split
  · trivial
  · split
    · trivial
    · exact answer_decodeEntry_legal hg ..

/-- Every response of UNPACK is legal (42_unpack_bitmask.md R152, R153). -/
theorem unpackResponse_legal (g : Config) (start : Byte) (m : BitVec 32) : (unpackResponse start m).Legal g := by
  have hl := elements_length_le start m
  refine ⟨?_, hl, elements_rising start m, start, ?_⟩
  · rw [BitVec.toNat_ofNat]
    omega
  · intro x hx
    obtain ⟨i, hi, -, rfl⟩ := mem_elements.mp hx
    rw [elementAt_toNat start hi]
    omega

/-- What a DEC instruction does: one response, by its registry slot. -/
theorem exec_of_dec {i : Instr} {p : Byte} {f : DecFields} (h : i.dec? = some (p, f)) (s : State) :
    exec i s = .next (s.deliver (answer (decodeEntry s.config p f.dlc f.a f.b f.c f.d))) := by
  cases i <;> cases h <;> rfl

theorem exec_unpack (f : UnpFields) (s : State) :
    exec (.unpack f) s = .next (s.deliver (unpackResponse f.startPid (assembleMask f.m0 f.m1 f.m2 f.m3))) := rfl

/-- Everything an instruction can do: it delivers one response, legal where the configuration is admitted. -/
theorem exec_delivers (i : Instr) (s : State) :
    ∃ x, exec i s = .next (s.deliver x) ∧ (s.config.wellFormed = true → x.Legal s.config) := by
  rcases instr_cases i with ⟨p, f, h⟩ | ⟨f, rfl⟩
  · exact ⟨_, exec_of_dec h s, fun hg => answer_decodeEntry_legal hg ..⟩
  · exact ⟨_, exec_unpack f s, fun _ => unpackResponse_legal _ _ _⟩

/-- Everything a step can do: idle, or take the oldest request and deliver one response to it. -/
theorem step_cases (s : State) :
    (s.requests = [] ∧ step s = .next s) ∨
    ∃ r rest x, s.requests = r :: rest ∧
      step s = .next (State.deliver { s with requests := rest } x) ∧ (s.config.wellFormed = true → x.Legal s.config) := by
  cases h : s.requests with
  | nil => exact .inl ⟨rfl, by simp [step, takeRequest, h]⟩
  | cons r rest =>
    refine .inr ⟨r, rest, ?_⟩
    cases hd : decode r.word with
    | ok i =>
      have hs : step s = exec i { s with requests := rest } := by simp [step, takeRequest, h, hd]
      obtain ⟨x, hx, hl⟩ := exec_delivers i { s with requests := rest }
      exact ⟨x, rfl, hs.trans hx, hl⟩
    | error c =>
      have hs : step s = execUnlisted r { s with requests := rest } := by simp [step, takeRequest, h, hd]
      exact ⟨_, rfl, hs, fun hg => answer_decodeFrame_legal hg r⟩

/-- The short-`dlc` test as the condition the rules print (41_decode_frame.md R135). -/
theorem dlcTooShort_iff (policy : DlcPolicy) (dlc : Dlc) (n : OperandBytes) :
    dlcTooShort policy dlc n = true ↔ policy = .strict ∧ dlc.toNat < 3 + byteCount n := by
  cases policy <;> simp [dlcTooShort]

/-- DECODE from step 3 on, once the entry is known. -/
theorem decodeEntry_of_lookup {g : Config} {p : Byte} {e : PidDefinition} (h : lookup g p = some e) (dlc : Dlc)
    (a b c d : Byte) :
    decodeEntry g p dlc a b c d =
      if g.dlcPolicy = .strict ∧ dlc.toNat < 3 + byteCount e.bytes then .error .dlc
      else .ok (buildReading e p a b c d) := by
  unfold decodeEntry
  rw [h]
  simp only [dlcTooShort_iff]

theorem decodeEntry_of_absent {g : Config} {p : Byte} (h : lookup g p = none) (dlc : Dlc) (a b c d : Byte) :
    decodeEntry g p dlc a b c d = .error .pid := by
  unfold decodeEntry
  rw [h]

/-- A step with a request, by its decoding. -/
theorem step_of_request {s : State} {r : Request} {rest : List Request} (h : s.requests = r :: rest) :
    step s = match decode r.word with
      | .ok i => exec i { s with requests := rest }
      | .error _ => execUnlisted r { s with requests := rest } := by
  cases hd : decode r.word <;> simp only [step, takeRequest, h, hd]

/-- A step with a DECODE request is the whole DECODE on it, whichever row it selects, if any. -/
theorem step_of_decodeRequest {s : State} {r : Request} {rest : List Request} (h : s.requests = r :: rest)
    (ho : r.op = .decode) :
    step s = .next (State.deliver { s with requests := rest } (answer (decodeFrame s.config r))) := by
  rw [step_of_request h]
  cases hd : decode r.word with
  | error c => rfl
  | ok i =>
    rcases decode_ok hd with ⟨h0, -⟩ | ⟨-, h1, h2, h3⟩
    · rw [op_word, ho] at h0
      cases h0
    · rw [id_word] at h1
      rw [data_word] at h2 h3
      simp only [exec_of_dec (dec_of_rowOfPid h3), decodeFrame_of_tests h1 h2]
      simp only [decFields, data_word, dlc_word]

/-- A step with an UNPACK request. -/
theorem step_of_unpackRequest {s : State} {r : Request} {rest : List Request} (h : s.requests = r :: rest)
    (ho : r.op = .unpack) :
    step s = .next (State.deliver { s with requests := rest }
      (unpackResponse r.startPid (assembleMask r.data.b3 r.data.b4 r.data.b5 r.data.b6))) := by
  rw [step_of_request h, decode_of_unpack (by rw [op_word, ho])]
  simp only [exec_unpack, unpFields, data_word, startPid_word]

end Sys2Proof.Machine
end

