-- ==== Sys2Proof/Laws/PerInstr.lean ====
section
/-! SUPPORT. Laws of each instruction as syntax, one lemma per constructor. Family `RowPattern`: the word of an
instruction lies in its own row of the opcode table (30_encoding.md R67, R68, R75). -/

namespace Sys2Proof.Laws

/-- The bitwise and of two payloads, byte by byte. -/
theorem and_payloadWord (d e : Payload) :
    d.word &&& e.word = Payload.word ⟨d.b0 &&& e.b0, d.b1 &&& e.b1, d.b2 &&& e.b2, d.b3 &&& e.b3, d.b4 &&& e.b4,
      d.b5 &&& e.b5, d.b6 &&& e.b6, d.b7 &&& e.b7⟩ := by
  have h : d.word &&& e.word =
      (((d.b0 ++ d.b1 ++ d.b2 ++ d.b3 ++ d.b4 ++ d.b5 ++ d.b6) &&&
        (e.b0 ++ e.b1 ++ e.b2 ++ e.b3 ++ e.b4 ++ e.b5 ++ e.b6)) ++ (d.b7 &&& e.b7) : BitVec 64) :=
    BitVec.and_append
  rw [h]
  simp only [BitVec.and_append]
  rfl

/-- The bitwise and of two request words, field by field. -/
theorem and_packWord (o o' : Op) (s s' : Byte) (i i' : CanId) (l l' : Dlc) (d d' : Payload) :
    packWord o s i l d &&& packWord o' s' i' l' d' =
      (((o.bit &&& o'.bit) ++ (s &&& s') ++ (i &&& i') ++ (l &&& l')) ++ (d.word &&& d'.word) : BitVec 106) := by
  have h : packWord o s i l d &&& packWord o' s' i' l' d' =
      (((o.bit ++ s ++ i ++ l) &&& (o'.bit ++ s' ++ i' ++ l')) ++ (d.word &&& d'.word) : BitVec 106) :=
    BitVec.and_append
  rw [h]
  simp only [BitVec.and_append]

/-- The word of a DEC row under `MASK_DEC` is the row's pattern. -/
theorem encodeDec_pattern (p : Byte) (f : DecFields) : encodeDec p f &&& maskDec = matchDec p := by
  have hm : maskDec = packWord .unpack 0 0x1FFFFFF8 0 ⟨0, 0xFF, 0xFF, 0, 0, 0, 0, 0⟩ := by decide
  have hp : matchDec p = packWord .decode 0 0x7E8 0 ⟨0, 0x41, p, 0, 0, 0, 0, 0⟩ := by
    revert p; decide
  have hid : ∀ k : BitVec 3, (idHigh ++ k) &&& (0x1FFFFFF8 : CanId) = 0x7E8 := by decide
  have hk : p &&& 0xFF = p := by revert p; decide
  have hz : ∀ {n : Nat} (x : BitVec n), x &&& 0 = 0 := fun x => BitVec.and_zero
  rw [hm, hp, encodeDec, and_packWord, and_payloadWord, hid, hk]
  simp only [hz]
  rfl

/-- The word of UNPACK under `MASK_UNP` is its pattern. -/
theorem encodeUnp_pattern (f : UnpFields) : encodeUnp f &&& maskUnp = matchUnp := by
  have hm : maskUnp = packWord .unpack 0 0 0 ⟨0, 0, 0, 0, 0, 0, 0, 0⟩ := by decide
  have hp : matchUnp = packWord .unpack 0 0 0 ⟨0, 0, 0, 0, 0, 0, 0, 0⟩ := by decide
  have hz : ∀ {n : Nat} (x : BitVec n), x &&& 0 = 0 := fun x => BitVec.and_zero
  rw [hm, hp, encodeUnp, and_packWord, and_payloadWord]
  simp only [hz]
  rfl

/-- The statement of the family: an instruction's word under its row's mask is its row's pattern. -/
def RowPattern.Statement (i : Instr) : Prop := encode i &&& i.mask = i.pattern

theorem RowPattern.load (f : DecFields) : RowPattern.Statement (.load f) := encodeDec_pattern _ f

theorem RowPattern.ect (f : DecFields) : RowPattern.Statement (.ect f) := encodeDec_pattern _ f

theorem RowPattern.stft1 (f : DecFields) : RowPattern.Statement (.stft1 f) := encodeDec_pattern _ f

theorem RowPattern.ltft1 (f : DecFields) : RowPattern.Statement (.ltft1 f) := encodeDec_pattern _ f

theorem RowPattern.stft2 (f : DecFields) : RowPattern.Statement (.stft2 f) := encodeDec_pattern _ f

theorem RowPattern.ltft2 (f : DecFields) : RowPattern.Statement (.ltft2 f) := encodeDec_pattern _ f

theorem RowPattern.fp (f : DecFields) : RowPattern.Statement (.fp f) := encodeDec_pattern _ f

theorem RowPattern.map (f : DecFields) : RowPattern.Statement (.map f) := encodeDec_pattern _ f

theorem RowPattern.rpm (f : DecFields) : RowPattern.Statement (.rpm f) := encodeDec_pattern _ f

theorem RowPattern.vss (f : DecFields) : RowPattern.Statement (.vss f) := encodeDec_pattern _ f

theorem RowPattern.iat (f : DecFields) : RowPattern.Statement (.iat f) := encodeDec_pattern _ f

theorem RowPattern.maf (f : DecFields) : RowPattern.Statement (.maf f) := encodeDec_pattern _ f

theorem RowPattern.tp (f : DecFields) : RowPattern.Statement (.tp f) := encodeDec_pattern _ f

theorem RowPattern.runtm (f : DecFields) : RowPattern.Statement (.runtm f) := encodeDec_pattern _ f

theorem RowPattern.mildist (f : DecFields) : RowPattern.Statement (.mildist f) := encodeDec_pattern _ f

theorem RowPattern.fli (f : DecFields) : RowPattern.Statement (.fli f) := encodeDec_pattern _ f

theorem RowPattern.clrdist (f : DecFields) : RowPattern.Statement (.clrdist f) := encodeDec_pattern _ f

theorem RowPattern.baro (f : DecFields) : RowPattern.Statement (.baro f) := encodeDec_pattern _ f

theorem RowPattern.catemp11 (f : DecFields) : RowPattern.Statement (.catemp11 f) := encodeDec_pattern _ f

theorem RowPattern.vpwr (f : DecFields) : RowPattern.Statement (.vpwr f) := encodeDec_pattern _ f

theorem RowPattern.lambda (f : DecFields) : RowPattern.Statement (.lambda f) := encodeDec_pattern _ f

theorem RowPattern.aat (f : DecFields) : RowPattern.Statement (.aat f) := encodeDec_pattern _ f

theorem RowPattern.tacr (f : DecFields) : RowPattern.Statement (.tacr f) := encodeDec_pattern _ f

theorem RowPattern.alch (f : DecFields) : RowPattern.Statement (.alch f) := encodeDec_pattern _ f

theorem RowPattern.frate (f : DecFields) : RowPattern.Statement (.frate f) := encodeDec_pattern _ f

theorem RowPattern.unpack (f : UnpFields) : RowPattern.Statement (.unpack f) := encodeUnp_pattern f

end Sys2Proof.Laws
end

