-- ==== Sys2Proof/Tests/Slice0.lean ====
section
/-! SUPPORT. The model's own tests. Expected results come from spec/: the worked examples of 40_pid_registry.md R96 to
R120, the vectors of 95_test_vectors.md, and words laid out by hand from the table of 30_encoding.md R62. -/

namespace Sys2Proof.Tests

open Sys2Proof.Machine

/-- The response of a machine of configuration `c` to the request word `w`. -/
def serve (c : Config) (w : Nat) : Option Response :=
  match step (State.withFetchWord ⟨c, [], []⟩ 112 w) with
  | .next t => t.responses.head?
  | .fault _ => none
  | .refused _ => none

/-- The code, numerator and denominator of a result. -/
def numbers : Option Response → Option (Byte × Int × Nat)
  | some (.decode (some r)) => some (r.pid, r.num.toInt, r.den.toNat)
  | _ => none

/-- The numbers of an UNPACK response: its count and its elements. -/
def pids : Option Response → Option (Nat × List Nat)
  | some (.unpack n l) => some (n.toNat, l.map BitVec.toNat)
  | _ => none

/-- The default configuration with `TRIM_BANK2 = true`. -/
def bank2 : Config := { configDefault with trimBank2 := true }

/-- The default configuration with `DLC_POLICY = STRICT`. -/
def strict : Config := { configDefault with dlcPolicy := .strict }

/-! ## Every constructor: its word, and its worked example -/

theorem test_load_word : decodeTableWord 112 0x10200007EBE664104A55AC33C99 =
    some (.load ⟨0x81, 3, 14, 0x66, 0xA5, 0x5A, 0xC3, 0x3C, 0x99⟩) := by decide

theorem test_load_result : numbers (serve configDefault 0x00000007E880341048000000000) = some (0x04, 12800, 255) := by decide

theorem test_ect_word : decodeTableWord 112 0x10200007EBE664105A55AC33C99 =
    some (.ect ⟨0x81, 3, 14, 0x66, 0xA5, 0x5A, 0xC3, 0x3C, 0x99⟩) := by decide

theorem test_ect_result : numbers (serve configDefault 0x00000007E880341057D00000000) = some (0x05, 85, 1) := by decide

theorem test_stft1_word : decodeTableWord 112 0x10200007EBE664106A55AC33C99 =
    some (.stft1 ⟨0x81, 3, 14, 0x66, 0xA5, 0x5A, 0xC3, 0x3C, 0x99⟩) := by decide

theorem test_stft1_result : numbers (serve configDefault 0x00000007E880341068A00000000) = some (0x06, 1000, 128) := by decide

theorem test_ltft1_word : decodeTableWord 112 0x10200007EBE664107A55AC33C99 =
    some (.ltft1 ⟨0x81, 3, 14, 0x66, 0xA5, 0x5A, 0xC3, 0x3C, 0x99⟩) := by decide

theorem test_ltft1_result : numbers (serve configDefault 0x00000007E880341077600000000) = some (0x07, -1000, 128) := by decide

theorem test_stft2_word : decodeTableWord 112 0x10200007EBE664108A55AC33C99 =
    some (.stft2 ⟨0x81, 3, 14, 0x66, 0xA5, 0x5A, 0xC3, 0x3C, 0x99⟩) := by decide

theorem test_stft2_result : numbers (serve bank2 0x00000007E880341088000000000) = some (0x08, 0, 128) := by decide

theorem test_ltft2_word : decodeTableWord 112 0x10200007EBE664109A55AC33C99 =
    some (.ltft2 ⟨0x81, 3, 14, 0x66, 0xA5, 0x5A, 0xC3, 0x3C, 0x99⟩) := by decide

theorem test_ltft2_result : numbers (serve bank2 0x00000007E88034109FF00000000) = some (0x09, 12700, 128) := by decide

theorem test_fp_word : decodeTableWord 112 0x10200007EBE66410AA55AC33C99 =
    some (.fp ⟨0x81, 3, 14, 0x66, 0xA5, 0x5A, 0xC3, 0x3C, 0x99⟩) := by decide

theorem test_fp_result : numbers (serve configDefault 0x00000007E8803410A6400000000) = some (0x0A, 300, 1) := by decide

theorem test_map_word : decodeTableWord 112 0x10200007EBE66410BA55AC33C99 =
    some (.map ⟨0x81, 3, 14, 0x66, 0xA5, 0x5A, 0xC3, 0x3C, 0x99⟩) := by decide

theorem test_map_result : numbers (serve configDefault 0x00000007E8803410B6500000000) = some (0x0B, 101, 1) := by decide

theorem test_rpm_word : decodeTableWord 112 0x10200007EBE66410CA55AC33C99 =
    some (.rpm ⟨0x81, 3, 14, 0x66, 0xA5, 0x5A, 0xC3, 0x3C, 0x99⟩) := by decide

theorem test_rpm_result : numbers (serve configDefault 0x00000007E8804410C1AF8000000) = some (0x0C, 6904, 4) := by decide

theorem test_vss_word : decodeTableWord 112 0x10200007EBE66410DA55AC33C99 =
    some (.vss ⟨0x81, 3, 14, 0x66, 0xA5, 0x5A, 0xC3, 0x3C, 0x99⟩) := by decide

theorem test_vss_result : numbers (serve configDefault 0x00000007E8803410D7800000000) = some (0x0D, 120, 1) := by decide

theorem test_iat_word : decodeTableWord 112 0x10200007EBE66410FA55AC33C99 =
    some (.iat ⟨0x81, 3, 14, 0x66, 0xA5, 0x5A, 0xC3, 0x3C, 0x99⟩) := by decide

theorem test_iat_result : numbers (serve configDefault 0x00000007E8803410F3C00000000) = some (0x0F, 20, 1) := by decide

theorem test_maf_word : decodeTableWord 112 0x10200007EBE664110A55AC33C99 =
    some (.maf ⟨0x81, 3, 14, 0x66, 0xA5, 0x5A, 0xC3, 0x3C, 0x99⟩) := by decide

theorem test_maf_result : numbers (serve configDefault 0x00000007E8804411004D2000000) = some (0x10, 1234, 100) := by decide

theorem test_tp_word : decodeTableWord 112 0x10200007EBE664111A55AC33C99 =
    some (.tp ⟨0x81, 3, 14, 0x66, 0xA5, 0x5A, 0xC3, 0x3C, 0x99⟩) := by decide

theorem test_tp_result : numbers (serve configDefault 0x00000007E880341113300000000) = some (0x11, 5100, 255) := by decide

theorem test_runtm_word : decodeTableWord 112 0x10200007EBE66411FA55AC33C99 =
    some (.runtm ⟨0x81, 3, 14, 0x66, 0xA5, 0x5A, 0xC3, 0x3C, 0x99⟩) := by decide

theorem test_runtm_result : numbers (serve configDefault 0x00000007E8804411F0E10000000) = some (0x1F, 3600, 1) := by decide

theorem test_mildist_word : decodeTableWord 112 0x10200007EBE664121A55AC33C99 =
    some (.mildist ⟨0x81, 3, 14, 0x66, 0xA5, 0x5A, 0xC3, 0x3C, 0x99⟩) := by decide

theorem test_mildist_result : numbers (serve configDefault 0x00000007E88044121002A000000) = some (0x21, 42, 1) := by decide

theorem test_fli_word : decodeTableWord 112 0x10200007EBE66412FA55AC33C99 =
    some (.fli ⟨0x81, 3, 14, 0x66, 0xA5, 0x5A, 0xC3, 0x3C, 0x99⟩) := by decide

theorem test_fli_result : numbers (serve configDefault 0x00000007E8803412FCC00000000) = some (0x2F, 20400, 255) := by decide

theorem test_clrdist_word : decodeTableWord 112 0x10200007EBE664131A55AC33C99 =
    some (.clrdist ⟨0x81, 3, 14, 0x66, 0xA5, 0x5A, 0xC3, 0x3C, 0x99⟩) := by decide

theorem test_clrdist_result : numbers (serve configDefault 0x00000007E880441313039000000) = some (0x31, 12345, 1) := by decide

theorem test_baro_word : decodeTableWord 112 0x10200007EBE664133A55AC33C99 =
    some (.baro ⟨0x81, 3, 14, 0x66, 0xA5, 0x5A, 0xC3, 0x3C, 0x99⟩) := by decide

theorem test_baro_result : numbers (serve configDefault 0x00000007E880341336500000000) = some (0x33, 101, 1) := by decide

theorem test_catemp11_word : decodeTableWord 112 0x10200007EBE66413CA55AC33C99 =
    some (.catemp11 ⟨0x81, 3, 14, 0x66, 0xA5, 0x5A, 0xC3, 0x3C, 0x99⟩) := by decide

theorem test_catemp11_result : numbers (serve configDefault 0x00000007E8804413C1194000000) = some (0x3C, 4100, 10) := by decide

theorem test_vpwr_word : decodeTableWord 112 0x10200007EBE664142A55AC33C99 =
    some (.vpwr ⟨0x81, 3, 14, 0x66, 0xA5, 0x5A, 0xC3, 0x3C, 0x99⟩) := by decide

theorem test_vpwr_result : numbers (serve configDefault 0x00000007E8804414236B0000000) = some (0x42, 14000, 1000) := by decide

theorem test_lambda_word : decodeTableWord 112 0x10200007EBE664144A55AC33C99 =
    some (.lambda ⟨0x81, 3, 14, 0x66, 0xA5, 0x5A, 0xC3, 0x3C, 0x99⟩) := by decide

theorem test_lambda_result : numbers (serve configDefault 0x00000007E880441448000000000) = some (0x44, 32768, 32768) := by decide

theorem test_aat_word : decodeTableWord 112 0x10200007EBE664146A55AC33C99 =
    some (.aat ⟨0x81, 3, 14, 0x66, 0xA5, 0x5A, 0xC3, 0x3C, 0x99⟩) := by decide

theorem test_aat_result : numbers (serve configDefault 0x00000007E880341463F00000000) = some (0x46, 23, 1) := by decide

theorem test_tacr_word : decodeTableWord 112 0x10200007EBE66414CA55AC33C99 =
    some (.tacr ⟨0x81, 3, 14, 0x66, 0xA5, 0x5A, 0xC3, 0x3C, 0x99⟩) := by decide

theorem test_tacr_result : numbers (serve configDefault 0x00000007E8803414C1A00000000) = some (0x4C, 2600, 255) := by decide

theorem test_alch_word : decodeTableWord 112 0x10200007EBE664152A55AC33C99 =
    some (.alch ⟨0x81, 3, 14, 0x66, 0xA5, 0x5A, 0xC3, 0x3C, 0x99⟩) := by decide

theorem test_alch_result : numbers (serve configDefault 0x00000007E880341525500000000) = some (0x52, 8500, 255) := by decide

theorem test_frate_word : decodeTableWord 112 0x10200007EBE66415EA55AC33C99 =
    some (.frate ⟨0x81, 3, 14, 0x66, 0xA5, 0x5A, 0xC3, 0x3C, 0x99⟩) := by decide

theorem test_frate_result : numbers (serve configDefault 0x00000007E8804415E007B000000) = some (0x5E, 123, 20) := by decide

theorem test_unpack_word : decodeTableWord 112 0x303ABCDEF1E661234A55AC33C99 =
    some (.unpack ⟨0x81, 0x1ABCDEF1, 14, 0x66, 0x12, 0x34, 0xA5, 0x5A, 0xC3, 0x3C, 0x99⟩) := by decide

/-- UP1. -/
theorem test_unpack_result : pids (serve configDefault 0x20000000000064100BE1FA81300) =
    some (17, [0x01, 0x03, 0x04, 0x05, 0x06, 0x07, 0x0C, 0x0D, 0x0E, 0x0F, 0x10, 0x11, 0x13, 0x15, 0x1C, 0x1F, 0x20]) := by
  decide

/-! ## Corner cases of section 2 of 95_test_vectors.md -/

/-- ID4. -/
theorem test_id_one_below : serve configDefault 0x00000007E7804410C1AF8000000 = some (.decode none) := by decide

/-- ID12. -/
theorem test_id_highest : numbers (serve configDefault 0x00000007EF804410C1AF8000000) = some (0x0C, 6904, 4) := by decide

/-- ID13. -/
theorem test_id_one_above : serve configDefault 0x00000007F0804410C1AF8000000 = some (.decode none) := by decide

/-- ID16. -/
theorem test_id_29_bits : serve configDefault 0x00000107E8804410C1AF8000000 = some (.decode none) := by decide

/-- MK3. -/
theorem test_marker_40 : serve configDefault 0x00000007E8804400C1AF8000000 = some (.decode none) := by decide

/-- LK7. -/
theorem test_absent_code : serve configDefault 0x00000007E8803410E9000000000 = some (.decode none) := by decide

/-- LK5. -/
theorem test_bank2_absent : serve configDefault 0x00000007E880341080000000000 = some (.decode none) := by decide

/-- LK5. -/
theorem test_bank2_present : numbers (serve bank2 0x00000007E880341080000000000) = some (0x08, -12800, 128) := by decide

/-- DL8. -/
theorem test_short_lenient : numbers (serve configDefault 0x00000007E8404410C1A00000000) = some (0x0C, 6656, 4) := by decide

/-- DL8. -/
theorem test_short_strict : serve strict 0x00000007E8404410C1A00000000 = some (.decode none) := by decide

/-- DL6. -/
theorem test_enough_strict : numbers (serve strict 0x00000007E8504410C1AF8000000) = some (0x0C, 6904, 4) := by decide

/-- section 2.4. -/
theorem test_greatest_operand : numbers (serve configDefault 0x00000007E8804413CFFFF000000) = some (0x3C, 65135, 10) := by decide

/-- UP2. -/
theorem test_unpack_first_bit : pids (serve configDefault 0x200000000000641008000000000) = some (1, [0x01]) := by decide

/-- UP5. -/
theorem test_unpack_last_bit : pids (serve configDefault 0x200000000000641000000000100) = some (1, [0x20]) := by decide

/-- UP6. -/
theorem test_unpack_empty : pids (serve configDefault 0x200000000000641000000000000) = some (0, []) := by decide

/-- UP9. -/
theorem test_unpack_no_tests : pids (serve configDefault 0x28000000000FFFFFF01000080FF) = some (2, [0x48, 0x59]) := by decide

/-- UP15. -/
theorem test_unpack_nine_bits : pids (serve configDefault 0x3FE000000000000000000000300) = some (2, [0x11E, 0x11F]) := by decide

/-- UP7: a full mask has 32 elements, which the 6-bit count holds. -/
theorem test_unpack_full : (pids (serve configDefault 0x20000000000064100FFFFFFFF00)).map Prod.fst = some 32 := by decide

/-- Program 1, step 1.1: the strings of a result. -/
theorem test_strings : serve configDefault 0x00000007E8804410C0BB8000000 =
    some (.decode (some ⟨0x0C, "Engine speed", "rpm", 3000, 4⟩)) := by decide

/-- RW4, RW5, RW6: words that select no row, by the name of the failed test. -/
theorem test_rejected_words :
    (match decode 0x00000007F0804410C1AF8000000 with | .error .id => true | _ => false) &&
    (match decode 0x00000007E8804400C1AF8000000 with | .error .marker => true | _ => false) &&
    (match decode 0x00000007E88064100BE1FA81300 with | .error .pid => true | _ => false) = true := by decide

/-- A number of more than 106 bits is no request word. -/
theorem test_too_wide : decodeTableWord 112 0x400000000000000000000000000 = none := by decide

/-- RT4 of section 2.7. -/
theorem test_packMask : maskOf [0x21, 0x2F, 0x31, 0x33, 0x3C, 0x40] 0x20 = 0x8002A011 := by
  decide +kernel

/-! ## Well-formedness: each check refuses an ill-formed term, and takes its nearest good neighbour -/

theorem test_wf_instr_dlc : Instr.wellFormed (.rpm ⟨0, 0, 9, 4, 0x1A, 0xF8, 0, 0, 0⟩) = false := by decide

theorem test_wf_instr_dlc_ok : Instr.wellFormed (.rpm ⟨0, 0, 8, 4, 0x1A, 0xF8, 0, 0, 0⟩) = true := by decide

theorem test_wf_unpack_dlc : Instr.wellFormed (.unpack ⟨0, 0, 9, 6, 0x41, 0, 0x80, 0, 0, 0, 0⟩) = false := by decide

/-- UP14 and its nearest accepted neighbour (93_implementation_defined.md U2). -/
theorem test_wf_unpack_element : Instr.wellFormed (.unpack ⟨0xE0, 0, 8, 6, 0x41, 0xE0, 0, 0, 0, 1, 0⟩) = false := by decide

theorem test_wf_unpack_element_ok : Instr.wellFormed (.unpack ⟨0xE0, 0, 8, 6, 0x41, 0xE0, 0x80, 0, 0, 2, 0⟩) = true := by
  decide

/-- A request: RPM with A = 0x1A, B = 0xF8. -/
def rqRpm : Request := ⟨.decode, 0, 0, 0x7E8, 8, ⟨0x04, 0x41, 0x0C, 0x1A, 0xF8, 0, 0, 0⟩⟩

/-- A request: a one-byte entry, with `dlc` at the end of its operand. -/
def rqEct : Request := ⟨.decode, 0, 0, 0x7EF, 4, ⟨0x03, 0x41, 0x05, 0x7D, 0, 0, 0, 0⟩⟩

/-- A request: the mask of RT4. -/
def rqMask : Request := ⟨.unpack, 0x20, 0, 0, 0, ⟨0x06, 0x41, 0x20, 0x80, 0x02, 0xA0, 0x11, 0⟩⟩

theorem test_wf_request : rqRpm.wellFormed && rqEct.wellFormed && rqMask.wellFormed = true := by decide

/-- U4. -/
theorem test_wf_request_ts : Request.wellFormed { rqRpm with ts := 0xFFFFFFFFFFFFFFFF } = false := by decide

/-- U5. -/
theorem test_wf_request_dlc : Request.wellFormed { rqRpm with dlc := 9 } = false := by decide

/-- UP15. -/
theorem test_wf_request_element : Request.wellFormed { rqMask with startPid := 0xFF } = false := by decide

theorem test_wf_entry_mul : PidDefinition.wellFormed ⟨"", "", .one, 0, 0, 1⟩ = false := by decide

theorem test_wf_entry_den : PidDefinition.wellFormed ⟨"", "", .one, 1, 0, 0⟩ = false := by decide

theorem test_wf_entry_den_wide : PidDefinition.wellFormed ⟨"", "", .one, 1, 0, 65536⟩ = false := by decide

theorem test_wf_entry_high : PidDefinition.wellFormed ⟨"", "", .two, 32769, 0, 1⟩ = false := by decide

theorem test_wf_entry_low : PidDefinition.wellFormed ⟨"", "", .two, 65536, -2147483649, 1⟩ = false := by decide

theorem test_wf_registry_order : Registry.wellFormed [(0x05, entryEct), (0x04, entryLoad)] = false := by decide

theorem test_wf_registry_twice : Registry.wellFormed [(0x05, entryEct), (0x05, entryIat)] = false := by decide

/-! ## Witnesses: concrete states and operands that meet the hypotheses of each statement -/

/-- One request pending, one response not yet taken. -/
def at1 (c : Config) (r : Request) : State := ⟨c, [r], [.decode none]⟩

/-- A registry with a code of its own, `0x99`, that no row of the opcode table lists, and an entry the spec does not admit
at `0x0C`. -/
def ownRegistry : Config := ⟨[(0x0C, ⟨"", "", .two, 65536, 0, 0⟩), (0x99, entryEct)], false, .lenient⟩

/-- StepRunsTheDecodedInstruction: its four clauses. -/
theorem test_witness_stepRuns :
    State.reset.requests = [] ∧
    ((at1 configDefault rqRpm).requests = [rqRpm] ∧
      decode rqRpm.word = .ok (.rpm ⟨0, 0, 8, 4, 0x1A, 0xF8, 0, 0, 0⟩)) ∧
    decode { rqRpm with id := 0x7F0 }.word = .error .id ∧
    decodeTableWord 112 0x00000007E8804410C1AF8000000 = some (.rpm ⟨0, 0, 8, 4, 0x1A, 0xF8, 0, 0, 0⟩) :=
  ⟨rfl, ⟨rfl, rfl⟩, rfl, by decide⟩

/-- EncodeOfDecodedWordIsTheWord. -/
theorem test_witness_encodeOfDecoded :
    decode 0x24000007E880641208002A01000 =
      .ok (.unpack ⟨0x20, 0x7E8, 8, 6, 0x41, 0x20, 0x80, 2, 0xA0, 0x10, 0⟩) := rfl

/-- DefaultRegistryCodes, with and without bank 2. -/
theorem test_witness_registryCodes :
    configDefault.registry = registryDefault ∧ bank2.registry = registryDefault ∧ bank2.trimBank2 = true := ⟨rfl, rfl, rfl⟩

/-- RejectedRequestReportsNoCause and FirstThreeTestsReject, one for each cause, at the bounds of the window. -/
theorem test_witness_rejections :
    rqRpm.op = .decode ∧
    decodeFrame configDefault { rqRpm with id := 0x7E7 } = .error .id ∧
    decodeFrame configDefault { rqRpm with id := 0x7F0 } = .error .id ∧
    decodeFrame configDefault { rqRpm with id := 0x7EF, data := ⟨4, 0x40, 0x0C, 0, 0, 0, 0, 0⟩ } = .error .marker ∧
    decodeFrame configDefault { rqRpm with data := ⟨4, 0x41, 0x0E, 0, 0, 0, 0, 0⟩ } = .error .pid ∧
    decodeFrame strict { rqRpm with dlc := 4 } = .error .dlc :=
  ⟨rfl, rfl, rfl, rfl, rfl, rfl⟩

/-- AcceptedFrameBuildsReading: a one-byte and a two-byte entry at the least `dlc` that `STRICT` takes, and an entry the
spec does not admit. -/
theorem test_witness_accepted :
    (lookup strict (pay rqEct.data 2) = some entryEct ∧ ¬ ShortDlc (at1 strict rqEct) 1 rqEct.dlc ∧
      entryEct.wellFormed = true ∧ rqEct.id.toNat = 0x7EF ∧ pay rqEct.data 1 = 0x41) ∧
    (lookup strict (pay rqRpm.data 2) = some entryRpm ∧ ¬ ShortDlc (at1 strict rqRpm) 2 5 ∧ entryRpm.wellFormed = true ∧
      rqRpm.id.toNat = 0x7E8) ∧
    lookup ownRegistry (pay rqRpm.data 2) = some ⟨"", "", .two, 65536, 0, 0⟩ := by decide

/-- DlcCountsOnlyUnderStrict, both clauses. -/
theorem test_witness_dlc :
    (rqRpm.op = .decode ∧ configDefault.dlcPolicy = .lenient) ∧
    (lookup strict (pay rqRpm.data 2) = some entryRpm ∧ strict.dlcPolicy = .strict ∧ (4 : Dlc).toNat < 3 + 2) := by decide

/-- ListedEntryFollowsItsFormula, ValueRisesWithOperand: two RPM instructions, 0x00FF below 0x0100. -/
theorem test_witness_formula :
    Instr.dec? (.rpm ⟨0, 0, 5, 4, 0x00, 0xFF, 0, 0, 0⟩) = some (0x0C, ⟨0, 0, 5, 4, 0x00, 0xFF, 0, 0, 0⟩) ∧
    Instr.dec? (.rpm ⟨0, 0, 5, 4, 0x01, 0x00, 0, 0, 0⟩) = some (0x0C, ⟨0, 0, 5, 4, 0x01, 0x00, 0, 0, 0⟩) ∧
    lookup strict 0x0C = some entryRpm ∧ entryRpm.wellFormed = true ∧ ¬ ShortDlc ⟨strict, [], []⟩ 2 5 ∧
    rawOperand .two 0x00 0xFF < rawOperand .two 0x01 0x00 := by decide

/-- ValueRisesWithOperand: what the two instructions answer. -/
theorem test_witness_formula_answers :
    exec (.rpm ⟨0, 0, 5, 4, 0x00, 0xFF, 0, 0, 0⟩) ⟨strict, [], []⟩ =
      .next (State.deliver ⟨strict, [], []⟩ (.decode (some ⟨0x0C, "Engine speed", "rpm", 255, 4⟩))) ∧
    exec (.rpm ⟨0, 0, 5, 4, 0x01, 0x00, 0, 0, 0⟩) ⟨strict, [], []⟩ =
      .next (State.deliver ⟨strict, [], []⟩ (.decode (some ⟨0x0C, "Engine speed", "rpm", 256, 4⟩))) := ⟨rfl, rfl⟩

/-- ListedEntryRejections: an absent slot, and a short `dlc` under `STRICT`. -/
theorem test_witness_listedRejections :
    Instr.dec? (.stft2 ⟨0, 0, 8, 3, 0x80, 0, 0, 0, 0⟩) = some (0x08, ⟨0, 0, 8, 3, 0x80, 0, 0, 0, 0⟩) ∧
    lookup configDefault 0x08 = none ∧ lookup strict 0x05 = some entryEct ∧ ShortDlc ⟨strict, [], []⟩ 1 3 := by decide

/-- The eight result statements: under `LENIENT` with `dlc = 0`, and under `STRICT` with the least `dlc`. -/
theorem test_witness_results :
    State.reset.config.registry = registryDefault ∧ ¬ ShortDlc State.reset 2 0 ∧
    strict.registry = registryDefault ∧ ¬ ShortDlc ⟨strict, [], []⟩ 1 4 ∧ ¬ ShortDlc ⟨strict, [], []⟩ 2 5 ∧
    bank2.registry = registryDefault ∧ bank2.trimBank2 = true ∧ ¬ ShortDlc ⟨bank2, [], []⟩ 1 0 := by decide

/-- DefaultRegistryNumRange. -/
theorem test_witness_numRange :
    step (at1 configDefault rqEct) = .next ⟨configDefault, [],
      [.decode none, .decode (some ⟨0x05, "Engine coolant temperature", "°C", 85, 1⟩)]⟩ := rfl

/-- UnpackStepMeetsPseudocode, AcceptanceCharacterised, DecodeStepMeetsPseudocode and EveryRequestGetsOneResponse: requests
of both operations. -/
theorem test_witness_requests :
    (at1 configDefault rqMask).requests = [rqMask] ∧ rqMask.op = .unpack ∧ (at1 configDefault rqRpm).requests = [rqRpm] ∧
    rqRpm.op = .decode := ⟨rfl, rfl, rfl, rfl⟩

/-- PackMaskRoundTrip: the ends of the window of block `0xE0`, their mask, and the request that carries it; and a PID one
below and one above the window. -/
theorem test_witness_packMask :
    ([0x0E1, 0x100] : List PidElement).Pairwise (fun x y => x.toNat < y.toNat) ∧
    (∀ q ∈ ([0x0E1, 0x100] : List PidElement), (0xE0 : Byte).toNat + 1 ≤ q.toNat ∧ q.toNat ≤ (0xE0 : Byte).toNat + 32) ∧
    maskPayload 0xE0 0x80000001 = ⟨0x06, 0x41, 0xE0, 0x80, 0x00, 0x00, 0x01, 0x00⟩ ∧
    (0x0E0 : PidElement).toNat < (0xE0 : Byte).toNat + 1 ∧ (0xE0 : Byte).toNat + 32 < (0x101 : PidElement).toNat := by
  decide

/-- The mask of those ends. -/
theorem test_witness_packMask_mask : maskOf [0x0E1, 0x100] 0xE0 = 0x80000001 := by decide +kernel

/-- InstructionFrame, UnpackDoesNotConsultRegistry: an instruction that goes on, with a request still pending. -/
theorem test_witness_frame :
    exec (.unpack ⟨0, 0, 8, 6, 0x41, 0, 0x80, 0, 0, 0, 0⟩) (at1 configDefault rqRpm) =
      .next ⟨configDefault, [rqRpm], [.decode none, .unpack 1 [0x01]]⟩ := rfl

/-- ConfigurationIsNeverWritten: each of its events happens. -/
theorem test_witness_events :
    present rqRpm State.reset = .next ⟨configDefault, [rqRpm], []⟩ ∧
    takeResponse (at1 configDefault rqRpm) = some (.decode none, ⟨configDefault, [rqRpm], []⟩) := ⟨rfl, rfl⟩

/-- UnreadFieldsDoNotMatter: two RPM requests under `LENIENT` that differ in every unread field, and two UNPACK requests. -/
theorem test_witness_unread :
    (pay rqRpm.data 2 = pay (⟨0xFF, 0x41, 0x0C, 0x1A, 0xF8, 0xAA, 0xBB, 0xCC⟩ : Payload) 2 ∧
      pay rqRpm.data 4 = pay (⟨0xFF, 0x41, 0x0C, 0x1A, 0xF8, 0xAA, 0xBB, 0xCC⟩ : Payload) 4 ∧
      0x7E8 ≤ (0x7EF : CanId).toNat ∧ (0x7EF : CanId).toNat ≤ 0x7EF ∧ configDefault.dlcPolicy = .lenient) ∧
    pay rqMask.data 3 = pay (⟨0xFF, 0xFF, 0xFF, 0x80, 0x02, 0xA0, 0x11, 0xFF⟩ : Payload) 3 := by decide

/-- ResponseDependsOnRequestAndConfigAlone: two machines with different queues and histories. -/
theorem test_witness_histories :
    (at1 configDefault rqRpm).config = (⟨configDefault, [rqRpm, rqMask], []⟩ : State).config ∧
    (at1 configDefault rqRpm).requests = [rqRpm] ∧
    (⟨configDefault, [rqRpm, rqMask], []⟩ : State).requests = rqRpm :: [rqMask] := ⟨rfl, rfl, rfl⟩

/-- StepKeepsInvariant: a state with a request pending and a rejection delivered meets the invariant. -/
theorem test_witness_inv : (at1 configDefault rqRpm).Inv := by
  refine ⟨by decide, ?_⟩
  intro x hx
  rw [List.mem_singleton.mp hx]
  trivial

/-- AdmittedRequestsNamePids. -/
theorem test_witness_admitted : (at1 configDefault rqMask).Admitted := by
  refine ⟨?_, ?_⟩
  · intro r hr
    rw [List.mem_singleton.mp hr]
    decide
  · intro x hx
    rw [List.mem_singleton.mp hx]
    trivial

/-- PresentRefusesExactlyIllFormed, each clause at its boundary: `ts = -1`, `dlc = 9`, element `0x100`, and the accepted
neighbours `ts = 0`, `dlc = 8`, element `0xFF`. -/
theorem test_witness_present :
    ((0xFFFFFFFFFFFFFFFF : TimeStamp).toInt < 0 ∧ 8 < (9 : Dlc).toNat) ∧
    ((0 : TimeStamp).toInt = 0 ∧ (8 : Dlc).toNat ≤ 8 ∧
      ((0x00 : Byte) ++ (0x00 : Byte) ++ (0x00 : Byte) ++ (0x01 : Byte) : BitVec 32) = 1 ∧ (1 : BitVec 32).getLsbD (31 - 31) = true ∧
      0xFF < (0xE0 : Byte).toNat + 31 + 1) ∧
    (2 : BitVec 32).getLsbD (31 - 30) = true ∧ (0xE0 : Byte).toNat + 30 + 1 ≤ 0xFF := by decide

/-- LookupReturnsTheListedEntry: an admitted configuration, with and without bank 2, a listed code and an added one. -/
theorem test_witness_lookup :
    configDefault.wellFormed = true ∧ bank2.wellFormed = true ∧
    lookup configDefault 0x5E = some ⟨"Engine fuel rate", "L/h", .two, 1, 0, 20⟩ ∧
    lookup bank2 0x08 = some ⟨"Short term fuel trim, bank 2", "%", .one, 100, -12800, 128⟩ ∧
    lookup bank2 0x09 = some ⟨"Long term fuel trim, bank 2", "%", .one, 100, -12800, 128⟩ := by decide

/-- AdmittedRequestDecodesWellFormed: a request of each operation. -/
theorem test_witness_admittedDecodes :
    (rqRpm.wellFormed = true ∧ decode rqRpm.word = .ok (.rpm ⟨0, 0, 8, 4, 0x1A, 0xF8, 0, 0, 0⟩)) ∧
    rqMask.wellFormed = true ∧ ∃ f, decode rqMask.word = .ok (.unpack f) :=
  ⟨⟨rfl, rfl⟩, by decide, ⟨_, rfl⟩⟩

end Sys2Proof.Tests
end

section
/-! PROOFS. The registry family (40_pid_registry.md section 2): what a DEC instruction answers for an admitted entry. -/

namespace Sys2Proof.Proofs

open Sys2Proof.Machine

/-- Where the `dlc` is not short under `STRICT`, a DEC instruction whose slot is present answers the entry's result. -/
theorem exec_of_present {i : Instr} {p : Byte} {f : DecFields} {s : State} {e : PidDefinition}
    (hi : i.dec? = some (p, f)) (hl : lookup s.config p = some e) (hdlc : ¬ ShortDlc s (byteCount e.bytes) f.dlc) :
    exec i s = .next (s.deliver (.decode (some (buildReading e p f.a f.b f.c f.d)))) := by
  rw [exec_of_dec hi, decodeEntry_of_lookup hl, if_neg hdlc]
  rfl

/-- The field `num` of an admitted entry's result carries the formula's integer at every operand (R91, R92). -/
theorem buildReading_num_toInt {e : PidDefinition} (he : e.wellFormed = true) (p a b c d : Byte) :
    (buildReading e p a b c d).num.toInt = numerator e (rawOperand e.bytes a b) := by
  have hraw : rawOperand e.bytes a b ≤ 65535 := (rawOperand_le e.bytes a b).trans (rawMax_le e.bytes)
  obtain ⟨hlow, hhigh⟩ := numerator_fits he hraw
  exact numField_toInt hlow hhigh

theorem buildReading_den_toNat {e : PidDefinition} (he : e.wellFormed = true) (p a b c d : Byte) :
    (buildReading e p a b c d).den.toNat = e.den := by
  obtain ⟨hpos, hmax⟩ := den_fits he
  exact denField_toNat hpos hmax

/-- Settles O16: the result of an admitted entry carries the formula's integer and `DEN` exactly, so the operand size
alone decides which operand bytes enter, and nothing is clamped. -/
theorem listedEntryFollowsItsFormula : Obligations.ListedEntryFollowsItsFormula := by
  intro i p f s e hi hl he hdlc
  have hnum := buildReading_num_toInt he p f.a f.b f.c f.d
  have hden := buildReading_den_toNat he p f.a f.b f.c f.d
  refine ⟨buildReading e p f.a f.b f.c f.d, exec_of_present hi hl hdlc, rfl, rfl, rfl, hden, ?one, ?two, ?value⟩
  case one =>
    intro hbytes
    simp only [hnum, numerator, rawOperand, hbytes]
  case two =>
    intro hbytes
    simp only [hnum, numerator, rawOperand, hbytes]
    push_cast
    rfl
  case value => rw [Reading.value, hden]

end Sys2Proof.Proofs
end

section
/-! PROOFS. The DECODE family (41_decode_frame.md R131 to R136): which test decides the outcome of a frame, and the
reading of a frame that passes them all. -/

namespace Sys2Proof.Proofs

open Sys2Proof.Machine

/-- From step 3 on, DECODE rejects only for the registry, and then the slot is absent, or for `dlc`. -/
theorem decodeEntry_error {g : Config} {p : Byte} {dlc : Dlc} {a b c d : Byte} {cause : RejectCause}
    (h : decodeEntry g p dlc a b c d = .error cause) : (cause = .pid ∧ lookup g p = none) ∨ cause = .dlc := by
  rcases decodeEntry_cases g p dlc a b c d with ⟨hnone, hpid⟩ | ⟨e, -, -, hdlc⟩ | ⟨e, -, -, hok⟩
  · exact .inl ⟨Except.error.inj (h.symm.trans hpid), hnone⟩
  · exact .inr (Except.error.inj (h.symm.trans hdlc))
  · exact nomatch h.symm.trans hok

section
variable {g : Config} {r : Request}

/-- The first test (R131), on the whole 29-bit number. -/
theorem decodeFrame_of_id_outside (hid : r.id.toNat < 0x7E8 ∨ 0x7EF < r.id.toNat) : decodeFrame g r = .error .id := by
  have hwin : ¬ idInWindow r.id = true := by
    rw [idInWindow_iff]
    omega
  rw [decodeFrame, if_pos (Bool.eq_false_iff.mpr hwin)]

/-- The second test (R132), made once the first is passed. -/
theorem decodeFrame_of_marker_ne (hlo : 0x7E8 ≤ r.id.toNat) (hhi : r.id.toNat ≤ 0x7EF) (hm : pay r.data 1 ≠ 0x41) :
    decodeFrame g r = .error .marker := by
  have hwin : idInWindow r.id = true := (idInWindow_iff _).mpr ⟨hlo, hhi⟩
  have hmark : ¬ markerMatches (pay r.data 1) = true := mt (markerMatches_iff _).mp hm
  rw [decodeFrame, if_neg (ne_false_of_eq_true hwin), if_pos (Bool.eq_false_iff.mpr hmark)]

/-- Past the first two tests the frame's code decides (R133). -/
theorem decodeFrame_of_marker_eq (hlo : 0x7E8 ≤ r.id.toNat) (hhi : r.id.toNat ≤ 0x7EF) (hm : pay r.data 1 = 0x41) :
    decodeFrame g r =
      decodeEntry g (pay r.data 2) r.dlc (pay r.data 3) (pay r.data 4) (pay r.data 5) (pay r.data 6) :=
  decodeFrame_of_tests ((idInWindow_iff _).mpr ⟨hlo, hhi⟩) hm

/-- An identifier inside the window is never the cause of a rejection. -/
theorem decodeFrame_ne_id (hlo : 0x7E8 ≤ r.id.toNat) (hhi : r.id.toNat ≤ 0x7EF) : decodeFrame g r ≠ .error .id := by
  intro h
  by_cases hm : pay r.data 1 = 0x41
  · rw [decodeFrame_of_marker_eq hlo hhi hm] at h
    rcases decodeEntry_error h with ⟨hc, -⟩ | hc <;> cases hc
  · cases (decodeFrame_of_marker_ne hlo hhi hm).symm.trans h

/-- One failed test among the first three is enough for a rejection, whatever the others say. -/
theorem decodeFrame_rejects
    (h : r.id.toNat < 0x7E8 ∨ 0x7EF < r.id.toNat ∨ pay r.data 1 ≠ 0x41 ∨ lookup g (pay r.data 2) = none) :
    ∃ cause, decodeFrame g r = .error cause := by
  by_cases hid : r.id.toNat < 0x7E8 ∨ 0x7EF < r.id.toNat
  · exact ⟨_, decodeFrame_of_id_outside hid⟩
  · have hlo : 0x7E8 ≤ r.id.toNat := by omega
    have hhi : r.id.toNat ≤ 0x7EF := by omega
    by_cases hm : pay r.data 1 = 0x41
    · have habs : lookup g (pay r.data 2) = none := by tauto
      exact ⟨_, (decodeFrame_of_marker_eq hlo hhi hm).trans (decodeEntry_of_absent habs ..)⟩
    · exact ⟨_, decodeFrame_of_marker_ne hlo hhi hm⟩

end

/-- A rejected DECODE answers `found = 0` and changes nothing else, whatever the cause (60_exceptions.md R173). -/
theorem step_of_rejected {s : State} {r : Request} {rest : List Request} {cause : RejectCause}
    (hs : s.requests = r :: rest) (ho : r.op = .decode) (h : decodeFrame s.config r = .error cause) :
    step s = .next ⟨s.config, rest, s.responses ++ [.decode none]⟩ := by
  rw [step_of_decodeRequest hs ho, h]
  rfl

/-- A frame that passes the four tests gets the reading of its entry (R136). -/
theorem step_of_accepted {s : State} {r : Request} {rest : List Request} {e : PidDefinition}
    (hs : s.requests = r :: rest) (ho : r.op = .decode) (hlo : 0x7E8 ≤ r.id.toNat) (hhi : r.id.toNat ≤ 0x7EF)
    (hm : pay r.data 1 = 0x41) (hl : lookup s.config (pay r.data 2) = some e)
    (hdlc : ¬ ShortDlc s (byteCount e.bytes) r.dlc) :
    step s = .next ⟨s.config, rest, s.responses ++ [.decode (some
      (buildReading e (pay r.data 2) (pay r.data 3) (pay r.data 4) (pay r.data 5) (pay r.data 6)))]⟩ := by
  rw [step_of_decodeRequest hs ho, decodeFrame_of_marker_eq hlo hhi hm, decodeEntry_of_lookup hl, if_neg hdlc]
  rfl

/-- An admitted entry's two integers fit their fields, and the operand size says which bytes enter (R92). -/
theorem buildReading_fields {e : PidDefinition} (he : e.wellFormed = true) (p a b c d : Byte) :
    (buildReading e p a b c d).den.toNat = e.den ∧
    (e.bytes = .one → (buildReading e p a b c d).num.toInt = e.mul * a.toNat + e.add) ∧
    (e.bytes = .two → (buildReading e p a b c d).num.toInt = e.mul * (256 * a.toNat + b.toNat) + e.add) := by
  refine ⟨buildReading_den_toNat he .., fun hbytes => ?one, fun hbytes => ?two⟩
  case one =>
    rw [buildReading_num_toInt he, hbytes]
    rfl
  case two =>
    rw [buildReading_num_toInt he, hbytes, numerator, rawOperand]
    push_cast
    rfl

/-- Settles O11: a failed test is a rejection of the whole step, and inside the window the marker and then the slot
decide the cause. -/
theorem firstThreeTestsReject : Obligations.FirstThreeTestsReject := by
  refine ⟨?step, fun _ _ => decodeFrame_of_id_outside, ?causes⟩
  case step =>
    intro s r rest hs ho hfail
    obtain ⟨cause, hc⟩ := decodeFrame_rejects hfail
    exact step_of_rejected hs ho hc
  case causes =>
    intro g r hlo hhi
    refine ⟨decodeFrame_ne_id hlo hhi, decodeFrame_of_marker_ne hlo hhi, fun hm => ?_⟩
    rw [decodeFrame_of_marker_eq hlo hhi hm]
    refine ⟨fun h => ?marker, fun habs => decodeEntry_of_absent habs .., fun hpres h => ?pid⟩
    case marker => rcases decodeEntry_error h with ⟨hc, -⟩ | hc <;> cases hc
    case pid =>
      rcases decodeEntry_error h with ⟨-, habs⟩ | hc
      · exact hpres habs
      · cases hc

/-- Settles O12: the reading is `buildReading` of the entry at the payload's operand bytes. -/
theorem acceptedFrameBuildsReading : Obligations.AcceptedFrameBuildsReading := by
  intro s r rest e hs ho hlo hhi hm hl hdlc
  refine ⟨_, _, step_of_accepted hs ho hlo hhi hm hl hdlc, fun he => ?_⟩
  exact buildReading_fields he (pay r.data 2) (pay r.data 3) (pay r.data 4) (pay r.data 5) (pay r.data 6)

end Sys2Proof.Proofs
end

section
/-! PROOFS. The UNPACK family (42_unpack_bitmask.md): the list of a mask by its positions (R157), by its bytes (R152),
and the number of its elements (R153, R154). -/

namespace Sys2Proof.Proofs

open Sys2Proof.Machine

/-- Settles O27: the pseudocode's list is `elements` of the assembled mask. -/
theorem unpackStepMeetsPseudocode : Obligations.UnpackStepMeetsPseudocode := by
  intro s r rest hs ho
  exact ⟨_, _, step_of_unpackRequest hs ho, count_toNat .., elements_rising .., fun _ => mem_elements_iff⟩

/-- A position below 32 is position `k` of byte 0, 1, 2 or 3. -/
theorem exists_position_iff {P : Nat → Prop} :
    (∃ i, i < 32 ∧ P i) ↔ ∃ k, k < 8 ∧ (P k ∨ P (8 + k) ∨ P (16 + k) ∨ P (24 + k)) := by
  constructor
  · rintro ⟨i, hi, hP⟩
    have hbyte : i % 8 = i ∨ 8 + i % 8 = i ∨ 16 + i % 8 = i ∨ 24 + i % 8 = i := by omega
    have hP' : P (i % 8) ∨ P (8 + i % 8) ∨ P (16 + i % 8) ∨ P (24 + i % 8) := by
      rcases hbyte with h | h | h | h <;> simp only [h, hP, true_or, or_true]
    exact ⟨i % 8, Nat.mod_lt i (by decide), hP'⟩
  · rintro ⟨k, hk, h | h | h | h⟩
    · exact ⟨k, by omega, h⟩
    · exact ⟨8 + k, by omega, h⟩
    · exact ⟨16 + k, by omega, h⟩
    · exact ⟨24 + k, by omega, h⟩

/-- Position `8 * j + k` of the mask is bit `7 - k` of mask byte `j` (R151, R152). -/
theorem assembleMask_position (m0 m1 m2 m3 : Byte) {k : Nat} (hk : k < 8) :
    (assembleMask m0 m1 m2 m3).getLsbD (31 - k) = m0.getLsbD (7 - k) ∧
    (assembleMask m0 m1 m2 m3).getLsbD (31 - (8 + k)) = m1.getLsbD (7 - k) ∧
    (assembleMask m0 m1 m2 m3).getLsbD (31 - (16 + k)) = m2.getLsbD (7 - k) ∧
    (assembleMask m0 m1 m2 m3).getLsbD (31 - (24 + k)) = m3.getLsbD (7 - k) := by
  have h0 : 31 - k = 7 - k + 24 := by omega
  have h1 : 31 - (8 + k) = 7 - k + 16 := by omega
  have h2 : 31 - (16 + k) = 7 - k + 8 := by omega
  have h3 : 31 - (24 + k) = 7 - k := by omega
  have hb : 7 - k < 8 := by omega
  rw [h0, h1, h2, h3]
  generalize 7 - k = b at hb
  simp only [assembleMask_getLsbD]
  refine ⟨?_, ?_, ?_, ?_⟩
  · rw [if_neg (by omega), if_neg (by omega), if_neg (by omega), Nat.add_sub_cancel]
  · rw [if_neg (by omega), if_neg (by omega), if_pos (by omega), Nat.add_sub_cancel]
  · rw [if_neg (by omega), if_pos (by omega), Nat.add_sub_cancel]
  · rw [if_pos hb]

/-- The elements of a mask, byte by byte (R152). -/
theorem mem_elements_assembleMask {start m0 m1 m2 m3 : Byte} {x : PidElement} :
    x ∈ elements start (assembleMask m0 m1 m2 m3) ↔ ∃ k, k < 8 ∧
      ((m0.getLsbD (7 - k) = true ∧ x.toNat = start.toNat + k + 1) ∨
       (m1.getLsbD (7 - k) = true ∧ x.toNat = start.toNat + 8 + k + 1) ∨
       (m2.getLsbD (7 - k) = true ∧ x.toNat = start.toNat + 16 + k + 1) ∨
       (m3.getLsbD (7 - k) = true ∧ x.toNat = start.toNat + 24 + k + 1)) := by
  rw [mem_elements_iff, exists_position_iff]
  refine exists_congr fun k => and_congr_right fun hk => ?_
  obtain ⟨h0, h1, h2, h3⟩ := assembleMask_position m0 m1 m2 m3 hk
  simp only [h0, h1, h2, h3, Nat.add_assoc]

/-- The elements lie in the block's window of 32 PIDs; `start_pid` itself is outside (R152). -/
theorem elements_window {start : Byte} {m : BitVec 32} {x : PidElement} (hx : x ∈ elements start m) :
    start.toNat + 1 ≤ x.toNat ∧ x.toNat ≤ start.toNat + 32 := by
  obtain ⟨i, hi, -, h⟩ := mem_elements_iff.mp hx
  omega

/-- Settles O28: each of the 32 positions is a bit of one of the four mask bytes. -/
theorem unpackElementsOfMaskBytes : Obligations.UnpackElementsOfMaskBytes := by
  intro f s
  exact ⟨_, _, exec_unpack f s, fun _ => mem_elements_assembleMask, fun _ => elements_window⟩

/-- The bit numbers of the positions are `31, …, 0`: the positions read the mask from its top bit down. -/
theorem map_bitNumber_positions : positions.map (31 - ·) = (List.range 32).reverse := by decide

/-- The list has one element for each set bit of the mask (R153). -/
theorem elements_length_eq_setBits (start : Byte) (m : BitVec 32) :
    (elements start m).length = ((List.range 32).filter m.getLsbD).length := by
  calc (elements start m).length
      = positions.countP (m.getLsbD ∘ (31 - ·)) := elements_length start m
    _ = (positions.map (31 - ·)).countP m.getLsbD := List.countP_map.symm
    _ = (List.range 32).countP m.getLsbD := by rw [map_bitNumber_positions, List.countP_reverse]
    _ = ((List.range 32).filter m.getLsbD).length := List.countP_eq_length_filter

/-- A mask of zeros names no PID (R154). -/
theorem elements_zero (start : Byte) : elements start 0 = [] := by
  refine List.eq_nil_iff_forall_not_mem.mpr fun x hx => ?_
  obtain ⟨i, -, hbit, -⟩ := mem_elements_iff.mp hx
  simp at hbit

/-- Settles O29: the set bits of the mask, counted from either end, are as many as the elements. -/
theorem unpackCountsSetBitsInOrder : Obligations.UnpackCountsSetBitsInOrder := by
  intro f s
  refine ⟨_, _, exec_unpack f s, elements_rising .., count_toNat .., elements_length_le ..,
    elements_length_eq_setBits .., fun h0 h1 h2 h3 => ?zero⟩
  case zero =>
    have hmask : assembleMask f.m0 f.m1 f.m2 f.m3 = 0 := by rw [h0, h1, h2, h3]; rfl
    rw [hmask, elements_zero]
    exact ⟨rfl, rfl⟩

end Sys2Proof.Proofs
end

section
/-! PROOFS. The exceptions family (60_exceptions.md R172, R173): each cause of a rejection by the test that fails first,
and what a rejected request gets. -/

namespace Sys2Proof.Proofs

open Sys2Proof.Machine

section
variable {g : Config} {p : Byte} {dlc : Dlc} {a b c d : Byte}

/-- From step 3 on, `REJ_PID` says that the slot is absent. -/
theorem decodeEntry_eq_pid_iff : decodeEntry g p dlc a b c d = .error .pid ↔ lookup g p = none := by
  refine ⟨fun h => ?_, fun habs => decodeEntry_of_absent habs ..⟩
  rcases decodeEntry_error h with ⟨-, habs⟩ | hc
  · exact habs
  · cases hc

/-- From step 3 on, `REJ_DLC` says that the slot is present and its entry is too long for `dlc` under `STRICT`. -/
theorem decodeEntry_eq_dlc_iff : decodeEntry g p dlc a b c d = .error .dlc ↔
    ∃ e, lookup g p = some e ∧ g.dlcPolicy = .strict ∧ dlc.toNat < 3 + byteCount e.bytes := by
  cases hl : lookup g p with
  | none => simp [decodeEntry_of_absent hl]
  | some e => simp [decodeEntry_of_lookup hl]

end

section
variable {g : Config} {r : Request} {cause : RejectCause}

/-- `REJ_ID` is the cause exactly outside the window (R131). -/
theorem decodeFrame_eq_id_iff : decodeFrame g r = .error .id ↔ r.id.toNat < 0x7E8 ∨ 0x7EF < r.id.toNat := by
  refine ⟨fun h => ?_, decodeFrame_of_id_outside⟩
  by_contra hin
  exact decodeFrame_ne_id (by omega) (by omega) h

/-- A later cause is reported only for a frame that passes the first test. -/
theorem window_of_decodeFrame_error (h : decodeFrame g r = .error cause) (hc : cause ≠ .id) :
    0x7E8 ≤ r.id.toNat ∧ r.id.toNat ≤ 0x7EF := by
  by_contra hout
  have hid : decodeFrame g r = .error .id := decodeFrame_of_id_outside (by omega)
  exact hc (Except.error.inj (h.symm.trans hid))

/-- `REJ_MARKER` is the cause exactly inside the window and with another marker (R132). -/
theorem decodeFrame_eq_marker_iff : decodeFrame g r = .error .marker ↔
    0x7E8 ≤ r.id.toNat ∧ r.id.toNat ≤ 0x7EF ∧ pay r.data 1 ≠ 0x41 := by
  refine ⟨fun h => ?_, fun ⟨hlo, hhi, hm⟩ => decodeFrame_of_marker_ne hlo hhi hm⟩
  obtain ⟨hlo, hhi⟩ := window_of_decodeFrame_error h (by decide)
  refine ⟨hlo, hhi, fun hm => ?_⟩
  rw [decodeFrame_of_marker_eq hlo hhi hm] at h
  rcases decodeEntry_error h with ⟨hc, -⟩ | hc <;> cases hc

/-- The causes of step 3 on are reported exactly for a frame that passes the first two tests and fails there. -/
theorem decodeFrame_eq_error_iff (hid : cause ≠ .id) (hmarker : cause ≠ .marker) : decodeFrame g r = .error cause ↔
    0x7E8 ≤ r.id.toNat ∧ r.id.toNat ≤ 0x7EF ∧ pay r.data 1 = 0x41 ∧
      decodeEntry g (pay r.data 2) r.dlc (pay r.data 3) (pay r.data 4) (pay r.data 5) (pay r.data 6) = .error cause := by
  refine ⟨fun h => ?_, fun ⟨hlo, hhi, hm, h⟩ => (decodeFrame_of_marker_eq hlo hhi hm).trans h⟩
  obtain ⟨hlo, hhi⟩ := window_of_decodeFrame_error h hid
  have hm : pay r.data 1 = 0x41 := by
    by_contra hne
    exact hmarker (Except.error.inj (h.symm.trans (decodeFrame_of_marker_ne hlo hhi hne)))
  exact ⟨hlo, hhi, hm, (decodeFrame_of_marker_eq hlo hhi hm).symm.trans h⟩

end

/-- Settles O9: the first two causes by their own tests, the other two by what DECODE from step 3 on reports. -/
theorem rejectionCausesInOrder : Obligations.RejectionCausesInOrder := by
  intro g r
  refine ⟨decodeFrame_eq_id_iff, decodeFrame_eq_marker_iff, ?pid, ?dlc⟩
  case pid => rw [decodeFrame_eq_error_iff (by decide) (by decide), decodeEntry_eq_pid_iff]
  case dlc => rw [decodeFrame_eq_error_iff (by decide) (by decide), decodeEntry_eq_dlc_iff]

/-- Settles O10: the response to a rejection does not read its cause. -/
theorem rejectedRequestReportsNoCause : Obligations.RejectedRequestReportsNoCause :=
  fun _ _ _ _ => step_of_rejected

end Sys2Proof.Proofs
end

section
/-! PROOFS. The encoding (30_encoding.md R61 to R68, R75): the round trips of the decoder, its rows as match and mask,
and the well-formedness of a decoded instruction. -/

namespace Sys2Proof.Proofs

open Sys2Proof.Machine

/-- A DEC instruction comes back from the word built of its code and fields (R67). -/
theorem decode_encodeDec {i : Instr} {p : Byte} {f : DecFields} (h : i.dec? = some (p, f)) :
    decode (encodeDec p f) = .ok i := by
  have hid : idInWindow (RequestWord.id (encodeDec p f)) = true := by
    rw [encodeDec, id_packWord]
    exact idInWindow_append f.idLow
  have hdata : RequestWord.data (encodeDec p f) = ⟨f.len, marker, p, f.a, f.b, f.c, f.d, f.pad⟩ := data_packWord ..
  refine decode_of_row (op_packWord ..) hid ?marker ?row
  case marker => rw [hdata]
  case row =>
    rw [hdata, decFields_encodeDec]
    exact rowOfPid_of_dec h

/-- An UNPACK comes back from the word built of its fields (R68). -/
theorem decode_encodeUnp (f : UnpFields) : decode (encodeUnp f) = .ok (.unpack f) := by
  have hop : RequestWord.op (encodeUnp f) = .unpack := op_packWord ..
  rw [decode_of_unpack hop, unpFields_encodeUnp]

/-- Settles O4: an instruction is a DEC row or UNPACK, and each format's word decodes to what it was built of. -/
theorem decodeEncodeRoundTrip : Obligations.DecodeEncodeRoundTrip := by
  intro i
  rcases instr_cases i with ⟨p, f, h⟩ | ⟨f, rfl⟩
  · rw [encode_of_dec h]
    exact decode_encodeDec h
  · exact decode_encodeUnp f

section
variable {w : RequestWord}

/-- The fixed and the free fields of a DEC word are all of its bits. -/
theorem encodeDec_decFields (ho : w.op = .decode) (hid : idInWindow w.id = true) (hm : w.data.b1 = marker) :
    encodeDec w.data.b2 (decFields w) = w := by
  calc encodeDec w.data.b2 (decFields w)
      = packWord .decode w.startPid (idHigh ++ w.id.extractLsb' 0 3) w.dlc { w.data with b1 := marker } := rfl
    _ = packWord w.op w.startPid w.id w.dlc w.data := by rw [append_of_idInWindow hid, ← hm, ho]
    _ = w := packWord_fields w

/-- `op` and the free fields of a UNP word are all of its bits. -/
theorem encodeUnp_unpFields (ho : w.op = .unpack) : encodeUnp (unpFields w) = w := by
  calc encodeUnp (unpFields w)
      = packWord .unpack w.startPid w.id w.dlc w.data := rfl
    _ = packWord w.op w.startPid w.id w.dlc w.data := by rw [ho]
    _ = w := packWord_fields w

end

/-- Settles O5: the tests a decoded word has passed fix every bit that the free fields leave out. -/
theorem encodeOfDecodedWordIsTheWord : Obligations.EncodeOfDecodedWordIsTheWord := by
  intro w i h
  rcases decode_ok h with ⟨ho, rfl⟩ | ⟨ho, hid, hm, hrow⟩
  · exact encodeUnp_unpFields ho
  · rw [encode_of_dec (dec_of_rowOfPid hrow)]
    exact encodeDec_decFields ho hid hm

/-- The identifiers of the window, by the mask of R67. -/
theorem idInWindow_iff_mask (id : CanId) : idInWindow id = true ↔ id &&& 0x1FFFFFF8 = 0x7E8 := by
  have hmasked : id &&& 0x1FFFFFF8 = id.extractLsb' 3 26 ++ 0#3 := by
    calc id &&& 0x1FFFFFF8
        = (id.extractLsb' 3 26 ++ id.extractLsb' 0 3) &&& (BitVec.allOnes 26 ++ 0#3) := by
          rw [append_fields id 0 26 3, BitVec.extractLsb'_eq_self]
          rfl
      _ = id.extractLsb' 3 26 ++ 0#3 := by rw [BitVec.and_append, BitVec.and_allOnes, BitVec.and_zero]
  have hpattern : (0x7E8 : CanId) = idHigh ++ 0#3 := rfl
  rw [idInWindow_iff_high, hmasked, hpattern]
  refine ⟨fun h => by rw [h], fun h => ?_⟩
  have hhigh := congrArg (BitVec.extractLsb' 3 26) h
  simpa only [BitVec.extractLsb'_append_eq_left] using hhigh

/-- What `MASK_DEC` keeps of a word: `op`, `id[28:3]`, the marker and the code (R67, R75). -/
theorem and_maskDec (w : RequestWord) :
    w &&& maskDec = packWord w.op 0 (w.id &&& 0x1FFFFFF8) 0 ⟨0, w.data.b1, w.data.b2, 0, 0, 0, 0, 0⟩ := by
  have hmask : maskDec = packWord .unpack 0 0x1FFFFFF8 0 ⟨0, 0xFF, 0xFF, 0, 0, 0, 0, 0⟩ := rfl
  have hop : w.op.bit &&& Op.unpack.bit = w.op.bit := BitVec.and_allOnes
  have hbyte : ∀ b : Byte, b &&& 0xFF = b := fun b => BitVec.and_allOnes
  have hzero : ∀ {n : Nat} (x : BitVec n), x &&& 0 = 0 := fun x => BitVec.and_zero
  conv_lhs => rw [← packWord_fields w, hmask, Laws.and_packWord, Laws.and_payloadWord]
  simp only [hop, hbyte, hzero]
  rfl

/-- The pattern of a DEC row is the packing of what the row fixes. -/
theorem matchDec_eq_packWord (p : Byte) :
    matchDec p = packWord .decode 0 0x7E8 0 ⟨0, 0x41, p, 0, 0, 0, 0, 0⟩ := by
  revert p
  decide

/-- A word that matches the pattern of code `p` under `MASK_DEC` passes the tests of DECODE's row `p`. -/
theorem fixed_of_matchDec {w : RequestWord} {p : Byte} (h : w &&& maskDec = matchDec p) :
    w.op = .decode ∧ idInWindow w.id = true ∧ w.data.b1 = marker ∧ w.data.b2 = p := by
  rw [and_maskDec, matchDec_eq_packWord] at h
  obtain ⟨hop, -, hid, -, hdata⟩ := packWord_inj h
  exact ⟨hop, (idInWindow_iff_mask _).mpr hid, congrArg Payload.b1 hdata, congrArg Payload.b2 hdata⟩

/-- A word that matches under `MASK_UNP` has its bit `op` set (R68). -/
theorem op_of_matchUnp {w : RequestWord} (h : w &&& maskUnp = matchUnp) : w.op = .unpack := by
  have hbit : (w &&& maskUnp).getLsbD 105 = matchUnp.getLsbD 105 := congrArg (BitVec.getLsbD · 105) h
  have hset : w.getLsbD 105 = true := by simpa [maskUnp, matchUnp] using hbit
  rw [RequestWord.op, if_pos hset]

/-- The codes with a row are those of the table. -/
theorem mem_tablePids_iff (p : Byte) (f : DecFields) : p ∈ tablePids ↔ ∃ i, rowOfPid p f = some i := by
  rw [← List.contains_iff_mem, ← rowOfPid_isSome p f, Option.isSome_iff_exists]

/-- The DEC half of the match and mask table. -/
theorem selects_dec_iff (w : RequestWord) (p : Byte) :
    (∃ i f, decode w = .ok i ∧ i.dec? = some (p, f)) ↔ p ∈ tablePids ∧ w &&& maskDec = matchDec p := by
  constructor
  · rintro ⟨i, f, hd, hi⟩
    refine ⟨(mem_tablePids_iff p f).mpr ⟨i, rowOfPid_of_dec hi⟩, ?_⟩
    rw [← encodeOfDecodedWordIsTheWord w i hd, encode_of_dec hi]
    exact Laws.encodeDec_pattern p f
  · rintro ⟨hp, hw⟩
    obtain ⟨hop, hid, hm, rfl⟩ := fixed_of_matchDec hw
    obtain ⟨i, hi⟩ := (mem_tablePids_iff _ (decFields w)).mp hp
    exact ⟨i, decFields w, decode_of_row hop hid hm hi, dec_of_rowOfPid hi⟩

/-- The UNP half of the match and mask table. -/
theorem selects_unpack_iff (w : RequestWord) : (∃ f, decode w = .ok (.unpack f)) ↔ w &&& maskUnp = matchUnp := by
  constructor
  · rintro ⟨f, hd⟩
    rw [← encodeOfDecodedWordIsTheWord w _ hd]
    exact Laws.encodeUnp_pattern f
  · exact fun hw => ⟨_, decode_of_unpack (op_of_matchUnp hw)⟩

/-- Settles O6: the literal masks and patterns are those of the model. -/
theorem matchAndMaskRowsSelect : Obligations.MatchAndMaskRowsSelect :=
  fun w => ⟨selects_dec_iff w, selects_unpack_iff w⟩

/-- A DEC instruction is well-formed exactly when its `dlc` is valid (R61). -/
theorem wellFormed_of_dec {i : Instr} {p : Byte} {f : DecFields} (h : i.dec? = some (p, f)) :
    i.wellFormed = dlcValid f.dlc := by
  cases i <;> cases h <;> rfl

/-- A well-formed request has a valid `dlc`, and as an UNPACK it yields only elements that name a PID. -/
theorem request_wellFormed_iff (r : Request) : r.wellFormed = true ↔
    tsValid r.ts = true ∧ dlcValid r.dlc = true ∧
      (r.op = .unpack → elementsFit r.startPid (assembleMask r.data.b3 r.data.b4 r.data.b5 r.data.b6) = true) := by
  rw [Request.wellFormed, Bool.and_eq_true, Bool.and_eq_true, and_assoc]
  cases r.op <;> simp

/-- Settles O44: `dlc`, `start_pid` and the mask bytes of the instruction are those of the request. -/
theorem admittedRequestDecodesWellFormed : Obligations.AdmittedRequestDecodesWellFormed := by
  intro r i hr hd
  obtain ⟨-, hdlc, hfit⟩ := (request_wellFormed_iff r).mp hr
  rcases decode_ok hd with ⟨ho, rfl⟩ | ⟨-, -, -, hrow⟩
  · rw [op_word] at ho
    simp only [Instr.wellFormed, unpFields, dlc_word, startPid_word, data_word, hdlc, hfit ho, Bool.and_self]
  · rw [wellFormed_of_dec (dec_of_rowOfPid hrow)]
    simp only [decFields, dlc_word, hdlc]

/-- Settles O3: the eight words, evaluated by the decoder. -/
theorem writtenOutWordsDecode : Obligations.WrittenOutWordsDecode :=
  ⟨rfl, rfl, rfl, rfl, rfl, rfl, rfl, rfl⟩

end Sys2Proof.Proofs
end

section
/-! PROOFS. The whole machine: what one step with a request does, by its response; from it the frame, the order of
service and the invariants. -/

namespace Sys2Proof.Proofs

open Sys2Proof.Machine

/-- The response of the block to a request, a function of the configuration and the request alone (10_state.md R20). -/
def responseTo (g : Config) (r : Request) : Response :=
  match r.op with
  | .decode => answer (decodeFrame g r)
  | .unpack => unpackResponse r.startPid (assembleMask r.data.b3 r.data.b4 r.data.b5 r.data.b6)

theorem responseTo_of_decode {g : Config} {r : Request} (ho : r.op = .decode) :
    responseTo g r = answer (decodeFrame g r) := by
  rw [responseTo, ho]

theorem responseTo_of_unpack {g : Config} {r : Request} (ho : r.op = .unpack) :
    responseTo g r = unpackResponse r.startPid (assembleMask r.data.b3 r.data.b4 r.data.b5 r.data.b6) := by
  rw [responseTo, ho]

/-- The block answers legally where its configuration is admitted. -/
theorem responseTo_legal {g : Config} (hg : g.wellFormed = true) (r : Request) : (responseTo g r).Legal g := by
  cases ho : r.op with
  | decode =>
    rw [responseTo_of_decode ho]
    exact answer_decodeFrame_legal hg r
  | unpack =>
    rw [responseTo_of_unpack ho]
    exact unpackResponse_legal ..

/-- A step with no request (60_exceptions.md R180). -/
theorem step_of_idle {s : State} (hs : s.requests = []) : step s = .next s := by
  rw [step, takeRequest_none.mpr hs]

/-- A step with a request: the oldest is taken, and its response joins those delivered before. -/
theorem step_of_pending {s : State} {r : Request} {rest : List Request} (hs : s.requests = r :: rest) :
    step s = .next ⟨s.config, rest, s.responses ++ [responseTo s.config r]⟩ := by
  cases ho : r.op with
  | decode =>
    rw [responseTo_of_decode ho]
    exact step_of_decodeRequest hs ho
  | unpack =>
    rw [responseTo_of_unpack ho]
    exact step_of_unpackRequest hs ho

/-- Everything a step can do: nothing, or serve the oldest request. -/
theorem step_next_cases {s t : State} (h : step s = .next t) :
    (s.requests = [] ∧ t = s) ∨
    ∃ r rest, s.requests = r :: rest ∧ t = ⟨s.config, rest, s.responses ++ [responseTo s.config r]⟩ := by
  cases hs : s.requests with
  | nil => exact .inl ⟨rfl, (Host.Outcome.next.inj ((step_of_idle hs).symm.trans h)).symm⟩
  | cons r rest => exact .inr ⟨r, rest, rfl, (Host.Outcome.next.inj ((step_of_pending hs).symm.trans h)).symm⟩

/-- Settles O40: the one response a step adds is legal. -/
theorem stepKeepsInvariant : Obligations.StepKeepsInvariant := by
  rintro s t ⟨hconfig, hlegal⟩ h
  rcases step_next_cases h with ⟨-, rfl⟩ | ⟨r, rest, -, rfl⟩
  · exact ⟨hconfig, hlegal⟩
  · refine ⟨hconfig, fun x hx => ?_⟩
    rcases List.mem_append.mp hx with hold | hnew
    · exact hlegal x hold
    · rw [List.mem_singleton.mp hnew]
      exact responseTo_legal hconfig r

/-- Settles O41: the default table is admitted, and no response is pending. -/
theorem resetMeetsInvariant : Obligations.ResetMeetsInvariant :=
  ⟨registryDefault_wellFormed, List.forall_mem_nil _⟩

/-- Settles O1: the fields of the two reset states. -/
theorem resetLeavesRegistryAndNothingPending : Obligations.ResetLeavesRegistryAndNothingPending :=
  ⟨rfl, fun s => ⟨applyReset_config s, applyReset_requests s, applyReset_responses s⟩⟩

/-- Settles O34: a step is idle or serves one request, and an instruction delivers one response. -/
theorem everyRequestGetsOneResponse : Obligations.EveryRequestGetsOneResponse := by
  refine ⟨fun s => ?goesOn, fun _ => step_of_idle, fun _ _ _ hs => ⟨_, step_of_pending hs⟩, fun i s => ?instr⟩
  case goesOn =>
    cases hs : s.requests with
    | nil => exact ⟨_, step_of_idle hs⟩
    | cons r rest => exact ⟨_, step_of_pending hs⟩
  case instr =>
    obtain ⟨x, hx, -⟩ := exec_delivers i s
    exact ⟨x, hx⟩

/-- Only an UNPACK response is without the bit `found`. -/
theorem found_answer_ne_none (y : Except RejectCause Reading) : found (answer y) ≠ none := by
  cases y <;> simp [answer, reject, found]

/-- The form of an instruction's one response is that of its operation. -/
theorem exec_next {i : Instr} {s t : State} (h : exec i s = .next t) :
    ∃ x, t = s.deliver x ∧ ((∃ f, i = .unpack f) ↔ found x = none) := by
  rcases instr_cases i with ⟨p, f, hi⟩ | ⟨f, rfl⟩
  · refine ⟨_, (Host.Outcome.next.inj ((exec_of_dec hi s).symm.trans h)).symm, ?_, fun hnone => ?_⟩
    · rintro ⟨f', rfl⟩
      cases hi
    · exact absurd hnone (found_answer_ne_none _)
  · refine ⟨_, (Host.Outcome.next.inj ((exec_unpack f s).symm.trans h)).symm, fun _ => rfl, fun _ => ⟨f, rfl⟩⟩

/-- Settles O35: an instruction delivers one response and writes nothing else. -/
theorem instructionFrame : Obligations.InstructionFrame := by
  intro i s t h
  obtain ⟨x, rfl, hform⟩ := exec_next h
  refine ⟨deliver_config .., fun _ => rfl, deliver_requests .., ?payload, x, deliver_responses .., hform⟩
  case payload =>
    intro k r r' hr hr' a
    rw [deliver_requests] at hr
    obtain rfl : r = r' := Option.some.inj (hr.symm.trans hr')
    rfl

/-- Presenting goes on exactly where the boundary finds nothing to refuse, and then only the queue changes. -/
theorem present_next {r : Request} {s t : State} (h : present r s = .next t) :
    boundaryRefusal r = none ∧ t = { s with requests := s.requests ++ [r] } := by
  unfold present at h
  cases hb : boundaryRefusal r with
  | none =>
    rw [hb] at h
    exact ⟨rfl, (Host.Outcome.next.inj h).symm⟩
  | some why =>
    rw [hb] at h
    cases h

/-- Taking a response removes the oldest one. -/
theorem takeResponse_some {s t : State} {x : Response} (h : takeResponse s = some (x, t)) :
    ∃ rest, s.responses = x :: rest ∧ t = { s with responses := rest } := by
  unfold takeResponse at h
  cases hr : s.responses with
  | nil =>
    rw [hr] at h
    cases h
  | cons y rest =>
    rw [hr] at h
    cases h
    exact ⟨rest, rfl, rfl⟩

/-- Settles O36: what a step and each host event write, none of it the configuration. -/
theorem configurationIsNeverWritten : Obligations.ConfigurationIsNeverWritten := by
  refine ⟨fun s t h => ?step, fun r s t h => ?present, fun s t x h => ?take, applyReset_config⟩
  case step => rcases step_next_cases h with ⟨-, rfl⟩ | ⟨r, rest, -, rfl⟩ <;> rfl
  case present =>
    obtain ⟨-, rfl⟩ := present_next h
    rfl
  case take =>
    obtain ⟨rest, -, rfl⟩ := takeResponse_some h
    rfl

/-- Settles O38: both machines answer `responseTo` of the one configuration. -/
theorem responseDependsOnRequestAndConfigAlone : Obligations.ResponseDependsOnRequestAndConfigAlone := by
  intro s s' r rest rest' hg hs hs'
  refine ⟨responseTo s.config r, step_of_pending hs, ?_⟩
  rw [hg]
  exact step_of_pending hs'

/-- A run's first step, where it goes on. -/
theorem run_succ_of_step {M : Host.Core} {s t : M.State} (h : M.step s = .next t) (k : Nat) :
    M.run (k + 1) s = M.run k t := by
  rw [Host.Core.run, h]

/-- A run of as many steps as requests answers each request, in order (20_memory.md R50). -/
theorem run_serves (g : Config) (rs : List Request) (xs : List Response) :
    Host.Core.run core rs.length (⟨g, rs, xs⟩ : State) =
      .next (⟨g, [], xs ++ rs.map (responseTo g)⟩ : State) := by
  induction rs generalizing xs with
  | nil => rw [List.map_nil, List.append_nil]; rfl
  | cons r rest ih =>
    have hstep : core.step (⟨g, r :: rest, xs⟩ : State) =
        .next (⟨g, rest, xs ++ [responseTo g r]⟩ : State) :=
      step_of_pending (s := ⟨g, r :: rest, xs⟩) rfl
    refine (run_succ_of_step hstep rest.length).trans ((ih (xs ++ [responseTo g r])).trans ?_)
    rw [List.append_assoc, List.singleton_append, List.map_cons]

/-- Settles O39: the responses of the run are `responseTo` of the requests, one by one. -/
theorem runServesRequestsInOrder : Obligations.RunServesRequestsInOrder := by
  intro s
  refine ⟨s.requests.map (responseTo s.config), List.length_map .., run_serves .., fun k r x hr hx => ?_⟩
  rw [List.getElem?_map, hr] at hx
  obtain rfl : responseTo s.config r = x := Option.some.inj hx
  exact step_of_pending rfl

/-- A number that decodes as a table word is a request word that decodes. -/
theorem decodeTableWord_eq_some {nbits w : Nat} {i : Instr} (h : decodeTableWord nbits w = some i) :
    decode (BitVec.ofNat 106 w) = .ok i := by
  unfold decodeTableWord at h
  split at h
  · cases hd : decode (BitVec.ofNat 106 w) with
    | ok j =>
      rw [hd] at h
      exact congrArg _ (Option.some.inj h)
    | error c =>
      rw [hd] at h
      cases h
  · cases h

/-- Settles O2: the outcome of decoding the oldest request's word selects what the step does. -/
theorem stepRunsTheDecodedInstruction : Obligations.StepRunsTheDecodedInstruction := by
  refine ⟨fun _ => step_of_idle, ?row, ?unlisted, ?placed⟩
  case row =>
    intro s r rest i hs hd
    rw [step_of_request hs, hd]
  case unlisted =>
    intro s r rest c hs hd
    rw [step_of_request hs, hd]
    rfl
  case placed =>
    intro s nbits w i hw
    rw [step_of_request (withFetchWord_requests ..), word_ofWord, decodeTableWord_eq_some hw]
    rfl

end Sys2Proof.Proofs
end

section
/-! PROOFS. The boundary (93_implementation_defined.md U2, U4, U5): which requests it refuses, and what the admitted
ones deliver. -/

namespace Sys2Proof.Proofs

open Sys2Proof.Machine

theorem tsValid_iff (ts : TimeStamp) : tsValid ts = true ↔ 0 ≤ ts.toInt := decide_eq_true_iff

theorem dlcValid_iff (dlc : Dlc) : dlcValid dlc = true ↔ dlc.toNat ≤ 8 := decide_eq_true_iff

theorem elementsFit_iff_mem (start : Byte) (m : BitVec 32) :
    elementsFit start m = true ↔ ∀ x ∈ elements start m, x.toNat ≤ 0xFF := by
  simp only [elementsFit, List.all_eq_true, decide_eq_true_eq]

/-- Every element fits, by the positions of the mask. -/
theorem elementsFit_iff (start : Byte) (m : BitVec 32) :
    elementsFit start m = true ↔ ∀ i, i < 32 → m.getLsbD (31 - i) = true → start.toNat + i + 1 ≤ 0xFF := by
  rw [elementsFit_iff_mem]
  constructor
  · intro h i hi hbit
    rw [← elementAt_toNat start hi]
    exact h _ (mem_elements.mpr ⟨i, hi, hbit, rfl⟩)
  · intro h x hx
    obtain ⟨i, hi, hbit, hval⟩ := mem_elements_iff.mp hx
    rw [hval]
    exact h i hi hbit

section
variable {r : Request}

theorem boundaryRefusal_of_ts (hts : ¬ tsValid r.ts = true) : boundaryRefusal r = some .negativeTimeStamp := by
  rw [boundaryRefusal, if_pos (Bool.eq_false_iff.mpr hts)]

theorem boundaryRefusal_of_dlc (hts : tsValid r.ts = true) (hdlc : ¬ dlcValid r.dlc = true) :
    boundaryRefusal r = some .dlcAboveEight := by
  rw [boundaryRefusal, if_neg (ne_false_of_eq_true hts), if_pos (Bool.eq_false_iff.mpr hdlc)]

theorem boundaryRefusal_of_element (hts : tsValid r.ts = true) (hdlc : dlcValid r.dlc = true) (ho : r.op = .unpack)
    (hfit : ¬ elementsFit r.startPid (assembleMask r.data.b3 r.data.b4 r.data.b5 r.data.b6) = true) :
    boundaryRefusal r = some .elementAboveFF := by
  rw [boundaryRefusal, if_neg (ne_false_of_eq_true hts), if_neg (ne_false_of_eq_true hdlc), ho]
  exact if_neg hfit

/-- The boundary refuses nothing but what is ill-formed. -/
theorem boundaryRefusal_of_wellFormed (hr : r.wellFormed = true) : boundaryRefusal r = none := by
  obtain ⟨hts, hdlc, hfit⟩ := (request_wellFormed_iff r).mp hr
  rw [boundaryRefusal, if_neg (ne_false_of_eq_true hts), if_neg (ne_false_of_eq_true hdlc)]
  cases ho : r.op with
  | decode => rfl
  | unpack => exact if_pos (hfit ho)

/-- What the boundary does not refuse is well-formed. -/
theorem wellFormed_of_boundaryRefusal (h : boundaryRefusal r = none) : r.wellFormed = true := by
  rw [request_wellFormed_iff]
  by_cases hts : tsValid r.ts = true
  · by_cases hdlc : dlcValid r.dlc = true
    · refine ⟨hts, hdlc, fun ho => ?_⟩
      by_contra hfit
      cases (boundaryRefusal_of_element hts hdlc ho hfit).symm.trans h
    · cases (boundaryRefusal_of_dlc hts hdlc).symm.trans h
  · cases (boundaryRefusal_of_ts hts).symm.trans h

theorem present_of_refusal {why : Refusal} (h : boundaryRefusal r = some why) (s : State) :
    present r s = .refused why := by
  rw [present, h]

theorem present_of_wellFormed (hr : r.wellFormed = true) (s : State) :
    present r s = .next { s with requests := s.requests ++ [r] } := by
  rw [present, boundaryRefusal_of_wellFormed hr]

/-- The response to a well-formed request names only PIDs (42_unpack_bitmask.md R156). -/
theorem responseTo_namesPids (hr : r.wellFormed = true) (g : Config) : (responseTo g r).NamesPids := by
  obtain ⟨-, -, hfit⟩ := (request_wellFormed_iff r).mp hr
  cases ho : r.op with
  | decode =>
    rw [responseTo_of_decode ho]
    cases decodeFrame g r <;> trivial
  | unpack =>
    rw [responseTo_of_unpack ho]
    exact (elementsFit_iff_mem ..).mp (hfit ho)

end

/-- Settles O42: a step answers a well-formed request, and a presentation adds one. -/
theorem admittedRequestsNamePids : Obligations.AdmittedRequestsNamePids := by
  refine ⟨?step, ?present⟩
  case step =>
    rintro s t ⟨hreq, hresp⟩ h
    rcases step_next_cases h with ⟨-, rfl⟩ | ⟨r, rest, hs, rfl⟩
    · exact ⟨hreq, hresp⟩
    · rw [hs, List.forall_mem_cons] at hreq
      obtain ⟨hr, hrest⟩ := hreq
      exact ⟨hrest, List.forall_mem_append.mpr
        ⟨hresp, List.forall_mem_singleton.mpr (responseTo_namesPids hr s.config)⟩⟩
  case present =>
    rintro r s t ⟨hreq, hresp⟩ h
    obtain ⟨hb, rfl⟩ := present_next h
    exact ⟨List.forall_mem_append.mpr
      ⟨hreq, List.forall_mem_singleton.mpr (wellFormed_of_boundaryRefusal hb)⟩, hresp⟩

/-- Settles O43: the three tests of the boundary, in their order, as bounds on the fields. -/
theorem presentRefusesExactlyIllFormed : Obligations.PresentRefusesExactlyIllFormed := by
  intro r s
  simp only [← tsValid_iff, ← dlcValid_iff]
  refine ⟨fun hts => ?ts, fun hts hdlc => ?dlc, fun hts hdlc ho hbit => ?element, fun hts hdlc hfit => ?admitted⟩
  case ts =>
    refine present_of_refusal (boundaryRefusal_of_ts ?_) s
    rw [tsValid_iff]
    omega
  case dlc =>
    refine present_of_refusal (boundaryRefusal_of_dlc hts ?_) s
    rw [dlcValid_iff]
    omega
  case element =>
    refine present_of_refusal (boundaryRefusal_of_element hts hdlc ho fun hfit => ?_) s
    obtain ⟨i, hi, hset, habove⟩ := hbit
    have hle := (elementsFit_iff ..).mp hfit i hi hset
    omega
  case admitted =>
    refine present_of_wellFormed ((request_wellFormed_iff r).mpr ⟨hts, hdlc, fun ho => ?_⟩) s
    exact (elementsFit_iff ..).mpr (hfit ho)

end Sys2Proof.Proofs
end

section
/-! PROOFS. The registry lookup (40_pid_registry.md section 1, R95): a slot is present exactly where its code is listed,
and the default table's rows. -/

namespace Sys2Proof.Proofs

open Sys2Proof.Machine

/-- The slot of a code is absent exactly where no row lists the code. -/
theorem slot_eq_none_iff {g : Registry} {p : Byte} : slot g p = none ↔ ∀ e, (p, e) ∉ g := by
  constructor
  · intro h e hmem
    induction g with
    | nil => cases hmem
    | cons c g ih =>
      rw [slot_cons] at h
      split at h
      · cases h
      · next hne =>
        rcases List.mem_cons.mp hmem with rfl | htail
        · exact hne rfl
        · exact ih h htail
  · intro h
    cases hs : slot g p with
    | none => rfl
    | some e => exact absurd (mem_of_slot hs) (h e)

/-- The codes of a registry in canonical form rise strictly (10_state.md R21). -/
theorem codes_rising {g : Registry} (hg : Registry.wellFormed g = true) :
    g.Pairwise (fun c c' => c.1.toNat < c'.1.toNat) := by
  induction g with
  | nil => exact .nil
  | cons c g ih =>
    cases g with
    | nil => exact List.pairwise_singleton _ c
    | cons c' g =>
      simp only [Registry.wellFormed, Bool.and_eq_true, decide_eq_true_eq] at hg
      obtain ⟨⟨hlt, -⟩, htail⟩ := hg
      have hrise := ih htail
      refine List.pairwise_cons.mpr ⟨fun d hd => ?_, hrise⟩
      rcases List.mem_cons.mp hd with rfl | hd
      · exact hlt
      · exact hlt.trans ((List.pairwise_cons.mp hrise).1 d hd)

/-- Where the codes rise strictly, a listed row is the slot of its code. -/
theorem slot_of_mem {g : Registry} (hg : g.Pairwise (fun c c' => c.1.toNat < c'.1.toNat)) {p : Byte}
    {e : PidDefinition} (h : (p, e) ∈ g) : slot g p = some e := by
  induction g with
  | nil => cases h
  | cons c g ih =>
    obtain ⟨hhead, htail⟩ := List.pairwise_cons.mp hg
    rw [slot_cons]
    rcases List.mem_cons.mp h with rfl | hmem
    · exact if_pos rfl
    · have hne : c.1 ≠ p := fun heq => (hhead _ hmem).ne (congrArg BitVec.toNat heq)
      rw [if_neg hne]
      exact ih htail hmem

theorem slot_eq_some_iff {g : Registry} (hg : Registry.wellFormed g = true) {p : Byte} {e : PidDefinition} :
    slot g p = some e ↔ (p, e) ∈ g :=
  ⟨mem_of_slot, slot_of_mem (codes_rising hg)⟩

/-- The registry's own slot wins over the bank-2 row (log entry 4). -/
theorem lookup_of_slot {c : Config} {p : Byte} {e : PidDefinition} (h : slot c.registry p = some e) :
    lookup c p = some e := by
  rw [lookup, h]

theorem lookup_of_bank2 {c : Config} {p : Byte} {e : PidDefinition} (hs : slot c.registry p = none)
    (ht : c.trimBank2 = true) (hb : slot registryBank2 p = some e) : lookup c p = some e := by
  rw [lookup, hs, ← hb]
  exact if_pos ht

/-- The registry's slot, or the bank-2 row where the parameter adds it. -/
theorem lookup_eq_some_iff {c : Config} {p : Byte} {e : PidDefinition} : lookup c p = some e ↔
    slot c.registry p = some e ∨ (c.trimBank2 = true ∧ slot c.registry p = none ∧ slot registryBank2 p = some e) := by
  constructor
  · intro h
    rcases lookup_cases h with hs | ⟨hs, ht, hb⟩
    · exact .inl hs
    · exact .inr ⟨ht, hs, hb⟩
  · rintro (hs | ⟨ht, hs, hb⟩)
    · exact lookup_of_slot hs
    · exact lookup_of_bank2 hs ht hb

/-- The two bank-2 rows. -/
theorem slot_bank2_iff {p : Byte} {e : PidDefinition} :
    slot registryBank2 p = some e ↔ (p = 0x08 ∧ e = entryStft2) ∨ (p = 0x09 ∧ e = entryLtft2) := by
  rw [slot_eq_some_iff bank2_wellFormed]
  simp only [registryBank2, List.mem_cons, Prod.mk.injEq, List.not_mem_nil, or_false]

/-- Settles O8: in canonical form the first listed row of a code is the only one. -/
theorem lookupReturnsTheListedEntry : Obligations.LookupReturnsTheListedEntry := by
  intro c p e hc
  rw [lookup_eq_some_iff, slot_eq_some_iff hc, slot_eq_none_iff, slot_bank2_iff]
  rfl

/-- The codes of the present slots. -/
theorem slot_isSome_iff {g : Registry} {p : Byte} : (slot g p).isSome = true ↔ p ∈ g.map Prod.fst := by
  rw [Option.isSome_iff_ne_none, ne_eq, slot_eq_none_iff]
  simp

theorem lookup_isSome_iff {c : Config} {p : Byte} : (lookup c p).isSome = true ↔
    (slot c.registry p).isSome = true ∨ (c.trimBank2 = true ∧ (slot registryBank2 p).isSome = true) := by
  unfold lookup
  cases slot c.registry p with
  | some e => simp
  | none => cases c.trimBank2 <;> simp

/-- Settles O7: the codes of the default table and of the bank-2 rows, read off the lists. -/
theorem defaultRegistryCodes : Obligations.DefaultRegistryCodes := by
  intro c p hr
  have hbank : p ∈ registryBank2.map Prod.fst ↔ p = 0x08 ∨ p = 0x09 := by simp [registryBank2]
  rw [lookup_isSome_iff, slot_isSome_iff, slot_isSome_iff, hr, hbank]
  rfl

/-- Without bank 2 the two codes are absent from the default table (R100, R101). -/
theorem lookup_default_eq_none {c : Config} (hr : c.registry = registryDefault) (ht : c.trimBank2 = false) {p : Byte}
    (hp : p = 0x08 ∨ p = 0x09) : lookup c p = none := by
  have habsent : slot registryDefault p = none := by rcases hp with rfl | rfl <;> rfl
  rw [lookup, hr, habsent, ht]
  rfl

end Sys2Proof.Proofs
end

section
/-! PROOFS. The results of the registry entries (40_pid_registry.md section 4), their range (R94) and their order. -/

namespace Sys2Proof.Proofs

open Sys2Proof.Machine

theorem exec_of_absent {i : Instr} {p : Byte} {f : DecFields} {s : State} (hi : i.dec? = some (p, f))
    (hl : lookup s.config p = none) : exec i s = .next (s.deliver (.decode none)) := by
  rw [exec_of_dec hi, decodeEntry_of_absent hl]
  rfl

theorem exec_of_shortDlc {i : Instr} {p : Byte} {f : DecFields} {s : State} {e : PidDefinition}
    (hi : i.dec? = some (p, f)) (hl : lookup s.config p = some e) (hdlc : ShortDlc s (byteCount e.bytes) f.dlc) :
    exec i s = .next (s.deliver (.decode none)) := by
  rw [exec_of_dec hi, decodeEntry_of_lookup hl, if_pos hdlc]
  rfl

/-- Settles O17: the two rejections from step 3 on, and the two default slots that are absent. -/
theorem listedEntryRejections : Obligations.ListedEntryRejections := by
  refine ⟨fun _ _ _ _ => exec_of_absent, fun _ _ _ _ _ => exec_of_shortDlc, fun f s hr ht => ⟨?_, ?_⟩⟩
  · exact exec_of_absent rfl (lookup_default_eq_none hr ht (.inl rfl))
  · exact exec_of_absent rfl (lookup_default_eq_none hr ht (.inr rfl))

/-- The reading of an admitted entry, its two fields written out. -/
theorem buildReading_of_numerator {e : PidDefinition} (he : e.wellFormed = true) {p a b c d : Byte} {n : Int}
    (hn : numerator e (rawOperand e.bytes a b) = n) :
    buildReading e p a b c d = ⟨p, e.name, e.unit, BitVec.ofInt 32 n, BitVec.ofNat 16 e.den⟩ := by
  have hfits := numerator_fits he ((rawOperand_le e.bytes a b).trans (rawMax_le e.bytes))
  rw [buildReading, decodeFunction, numField, if_pos hfits, hn, denField, if_pos (den_fits he)]

/-- What a DEC instruction answers for an admitted entry whose formula gives `n`. -/
theorem exec_of_numerator {i : Instr} {p : Byte} {f : DecFields} {s : State} (e : PidDefinition) {n : Int}
    (hi : i.dec? = some (p, f)) (hl : lookup s.config p = some e) (he : e.wellFormed = true)
    (hdlc : ¬ ShortDlc s (byteCount e.bytes) f.dlc) (hn : numerator e (rawOperand e.bytes f.a f.b) = n) :
    exec i s = .next (s.deliver (.decode (some ⟨p, e.name, e.unit, BitVec.ofInt 32 n, BitVec.ofNat 16 e.den⟩))) := by
  rw [exec_of_present hi hl hdlc, buildReading_of_numerator he hn]

section
variable {i : Instr} {p : Byte} {f : DecFields} {s : State} (e : PidDefinition) {n : Int}

/-- What a DEC instruction answers by its row of the default table. -/
theorem exec_of_defaultRow (hr : s.config.registry = registryDefault) (hi : i.dec? = some (p, f))
    (hrow : slot registryDefault p = some e) (hdlc : ¬ ShortDlc s (byteCount e.bytes) f.dlc)
    (hn : numerator e (rawOperand e.bytes f.a f.b) = n) :
    exec i s = .next (s.deliver (.decode (some ⟨p, e.name, e.unit, BitVec.ofInt 32 n, BitVec.ofNat 16 e.den⟩))) :=
  exec_of_numerator e hi (lookup_of_slot (hr ▸ hrow))
    (wellFormed_of_mem registryDefault_wellFormed (mem_of_slot hrow)) hdlc hn

/-- What a DEC instruction answers by a bank-2 row beside the default table (log entry 4). -/
theorem exec_of_bank2Row (hr : s.config.registry = registryDefault) (ht : s.config.trimBank2 = true)
    (hi : i.dec? = some (p, f)) (habsent : slot registryDefault p = none) (hrow : slot registryBank2 p = some e)
    (hdlc : ¬ ShortDlc s (byteCount e.bytes) f.dlc) (hn : numerator e (rawOperand e.bytes f.a f.b) = n) :
    exec i s = .next (s.deliver (.decode (some ⟨p, e.name, e.unit, BitVec.ofInt 32 n, BitVec.ofNat 16 e.den⟩))) :=
  exec_of_numerator e hi (lookup_of_bank2 (hr ▸ habsent) ht hrow)
    (wellFormed_of_mem bank2_wellFormed (mem_of_slot hrow)) hdlc hn

end

/-- The formula of a one-byte entry, in the form the rules print. -/
theorem numerator_oneByte (name unit : String) (mul : Nat) (add : Int) (den : Nat) (a b : Byte) :
    numerator ⟨name, unit, .one, mul, add, den⟩ (rawOperand .one a b) = mul * a.toNat + add := rfl

/-- The formula of a two-byte entry with `MUL = 1`: `256*A + B + ADD`. -/
theorem numerator_twoByte (name unit : String) (add : Int) (den : Nat) (a b : Byte) :
    numerator ⟨name, unit, .two, 1, add, den⟩ (rawOperand .two a b) = 256 * a.toNat + b.toNat + add := by
  rw [numerator, rawOperand]
  push_cast
  ring

/-- Settles O18: the five percent rows have the formula `100*A + 0`. -/
theorem percentEntriesResult : Obligations.PercentEntriesResult := by
  intro f s hr hdlc
  have hn (name : String) :
      numerator ⟨name, "%", .one, 100, 0, 255⟩ (rawOperand .one f.a f.b) = 100 * f.a.toNat := by
    rw [numerator_oneByte, add_zero]
    rfl
  exact ⟨exec_of_defaultRow entryLoad hr rfl rfl hdlc (hn _), exec_of_defaultRow entryTp hr rfl rfl hdlc (hn _),
    exec_of_defaultRow entryFli hr rfl rfl hdlc (hn _), exec_of_defaultRow entryTacr hr rfl rfl hdlc (hn _),
    exec_of_defaultRow entryAlch hr rfl rfl hdlc (hn _)⟩

/-- Settles O19: the three temperature rows have the formula `1*A + (-40)`. -/
theorem temperatureEntriesResult : Obligations.TemperatureEntriesResult := by
  intro f s hr hdlc
  have hn (name : String) :
      numerator ⟨name, "°C", .one, 1, -40, 1⟩ (rawOperand .one f.a f.b) = f.a.toNat - 40 := by
    rw [numerator_oneByte, Nat.cast_one, one_mul]
    rfl
  exact ⟨exec_of_defaultRow entryEct hr rfl rfl hdlc (hn _), exec_of_defaultRow entryIat hr rfl rfl hdlc (hn _),
    exec_of_defaultRow entryAat hr rfl rfl hdlc (hn _)⟩

/-- Settles O20: the four fuel-trim rows have the formula `100*A + (-12800)`, two of them as bank-2 rows. -/
theorem fuelTrimEntriesResult : Obligations.FuelTrimEntriesResult := by
  intro f s hr hdlc
  have hn (name : String) :
      numerator ⟨name, "%", .one, 100, -12800, 128⟩ (rawOperand .one f.a f.b) = 100 * f.a.toNat - 12800 :=
    numerator_oneByte ..
  exact ⟨exec_of_defaultRow entryStft1 hr rfl rfl hdlc (hn _), exec_of_defaultRow entryLtft1 hr rfl rfl hdlc (hn _),
    fun ht => ⟨exec_of_bank2Row entryStft2 hr ht rfl rfl rfl hdlc (hn _),
      exec_of_bank2Row entryLtft2 hr ht rfl rfl rfl hdlc (hn _)⟩⟩

/-- Settles O21: the rows have the formula `MUL*A + 0`, `MUL` 3 or 1. -/
theorem pressureAndSpeedEntriesResult : Obligations.PressureAndSpeedEntriesResult := by
  intro f s hr hdlc
  have hthree (name : String) : numerator ⟨name, "kPa", .one, 3, 0, 1⟩ (rawOperand .one f.a f.b) = 3 * f.a.toNat := by
    rw [numerator_oneByte, add_zero]
    rfl
  have hone (name unit : String) : numerator ⟨name, unit, .one, 1, 0, 1⟩ (rawOperand .one f.a f.b) = f.a.toNat := by
    rw [numerator_oneByte, add_zero, Nat.cast_one, one_mul]
  exact ⟨exec_of_defaultRow entryFp hr rfl rfl hdlc (hthree _), exec_of_defaultRow entryMap hr rfl rfl hdlc (hone _ _),
    exec_of_defaultRow entryVss hr rfl rfl hdlc (hone _ _), exec_of_defaultRow entryBaro hr rfl rfl hdlc (hone _ _)⟩

/-- The formula of a two-byte entry with `MUL = 1` and `ADD = 0` is the operand word itself. -/
theorem numerator_word (name unit : String) (den : Nat) (a b : Byte) :
    numerator ⟨name, unit, .two, 1, 0, den⟩ (rawOperand .two a b) = 256 * a.toNat + b.toNat := by
  rw [numerator_twoByte, add_zero]

/-- Settles O22: the three rows carry the operand word with denominator 1. -/
theorem wordEntriesResult : Obligations.WordEntriesResult := fun _ _ hr hdlc =>
  ⟨exec_of_defaultRow entryRuntm hr rfl rfl hdlc (numerator_word ..),
    exec_of_defaultRow entryMildist hr rfl rfl hdlc (numerator_word ..),
    exec_of_defaultRow entryClrdist hr rfl rfl hdlc (numerator_word ..)⟩

/-- Settles O23: the five rows carry the operand word over the denominator of the row. -/
theorem scaledWordEntriesResult : Obligations.ScaledWordEntriesResult := fun _ _ hr hdlc =>
  ⟨exec_of_defaultRow entryRpm hr rfl rfl hdlc (numerator_word ..),
    exec_of_defaultRow entryMaf hr rfl rfl hdlc (numerator_word ..),
    exec_of_defaultRow entryVpwr hr rfl rfl hdlc (numerator_word ..),
    exec_of_defaultRow entryLambda hr rfl rfl hdlc (numerator_word ..),
    exec_of_defaultRow entryFrate hr rfl rfl hdlc (numerator_word ..)⟩

/-- Settles O24: the row has the formula `1*(256*A + B) + (-400)`. -/
theorem catalystEntryResult : Obligations.CatalystEntryResult := fun _ _ hr hdlc =>
  exec_of_defaultRow entryCatemp11 hr rfl rfl hdlc (numerator_twoByte ..)

/-- The formula rises strictly where `MUL >= 1` (R91). -/
theorem numerator_strictMono {e : PidDefinition} (he : e.wellFormed = true) : StrictMono (numerator e) := by
  simp only [PidDefinition.wellFormed, Bool.and_eq_true, decide_eq_true_eq] at he
  have hmul : (0 : Int) < e.mul := by omega
  intro raw raw' hlt
  exact Int.add_lt_add_right (mul_lt_mul_of_pos_left (Int.ofNat_lt.mpr hlt) hmul) e.add

/-- The result a DEC instruction answers is the reading of its slot's entry. -/
theorem reading_of_exec {i : Instr} {p : Byte} {f : DecFields} {s : State} {e : PidDefinition} {x : Reading}
    (hi : i.dec? = some (p, f)) (hl : lookup s.config p = some e)
    (h : exec i s = .next (s.deliver (.decode (some x)))) : x = buildReading e p f.a f.b f.c f.d := by
  have hresponse {y : Response} (hy : exec i s = .next (s.deliver y)) : Response.decode (some x) = y := by
    have hlist := congrArg State.responses (Host.Outcome.next.inj (h.symm.trans hy))
    exact List.singleton_inj.mp (List.append_cancel_left hlist)
  by_cases hdlc : ShortDlc s (byteCount e.bytes) f.dlc
  · cases hresponse (exec_of_shortDlc hi hl hdlc)
  · exact Option.some.inj (Response.decode.inj (hresponse (exec_of_present hi hl hdlc)))

/-- The value of an admitted entry's reading is the formula over `DEN` (R93). -/
theorem buildReading_value {e : PidDefinition} (he : e.wellFormed = true) (p a b c d : Byte) :
    (buildReading e p a b c d).value = (numerator e (rawOperand e.bytes a b) : Rat) / (e.den : Rat) := by
  rw [Reading.value, buildReading_num_toInt he, buildReading_den_toNat he]

/-- Settles O26: one positive denominator, and a numerator that rises strictly. -/
theorem valueRisesWithOperand : Obligations.ValueRisesWithOperand := by
  intro i j p f g s e x y hi hj hl he hx hy hlt
  have hden : (0 : Rat) < (e.den : Rat) := Nat.cast_pos.mpr (den_fits he).1
  rw [reading_of_exec hi hl hx, reading_of_exec hj hl hy, buildReading_value he, buildReading_value he]
  exact div_lt_div_of_pos_right (Int.cast_lt.mpr (numerator_strictMono he hlt)) hden

end Sys2Proof.Proofs
end

section
/-! PROOFS. DECODE on a request (41_decode_frame.md R135 to R141): when it accepts, what it reads, and the pseudocode.
-/

namespace Sys2Proof.Proofs

open Sys2Proof.Machine

section
variable {g : Config} {r : Request} {x : Reading}

/-- From step 3 on, DECODE accepts exactly where the slot is present and `dlc` is not short. -/
theorem decodeEntry_eq_ok_iff {p : Byte} {dlc : Dlc} {a b c d : Byte} : decodeEntry g p dlc a b c d = .ok x ↔
    ∃ e, lookup g p = some e ∧ ¬ (g.dlcPolicy = .strict ∧ dlc.toNat < 3 + byteCount e.bytes) ∧
      buildReading e p a b c d = x := by
  cases hl : lookup g p with
  | none => simp [decodeEntry_of_absent hl]
  | some e =>
    rw [decodeEntry_of_lookup hl]
    by_cases hdlc : g.dlcPolicy = .strict ∧ dlc.toNat < 3 + byteCount e.bytes
    · simp [hdlc]
    · simp only [hdlc, if_false, Except.ok.injEq, Option.some.injEq, exists_eq_left', not_false_eq_true, true_and]

/-- DECODE accepts exactly a frame that passes the first two tests and those from step 3 on. -/
theorem decodeFrame_eq_ok_iff : decodeFrame g r = .ok x ↔
    0x7E8 ≤ r.id.toNat ∧ r.id.toNat ≤ 0x7EF ∧ pay r.data 1 = 0x41 ∧
      decodeEntry g (pay r.data 2) r.dlc (pay r.data 3) (pay r.data 4) (pay r.data 5) (pay r.data 6) = .ok x := by
  refine ⟨fun h => ?_, fun ⟨hlo, hhi, hm, h⟩ => (decodeFrame_of_marker_eq hlo hhi hm).trans h⟩
  by_cases hid : r.id.toNat < 0x7E8 ∨ 0x7EF < r.id.toNat
  · cases (decodeFrame_of_id_outside hid).symm.trans h
  · have hlo : 0x7E8 ≤ r.id.toNat := by omega
    have hhi : r.id.toNat ≤ 0x7EF := by omega
    by_cases hm : pay r.data 1 = 0x41
    · exact ⟨hlo, hhi, hm, (decodeFrame_of_marker_eq hlo hhi hm).symm.trans h⟩
    · cases (decodeFrame_of_marker_ne hlo hhi hm).symm.trans h

/-- An accepted frame has an entry, is not short for it, and gets its reading. -/
theorem decodeFrame_ok (h : decodeFrame g r = .ok x) :
    ∃ e, lookup g (pay r.data 2) = some e ∧ ¬ (g.dlcPolicy = .strict ∧ r.dlc.toNat < 3 + byteCount e.bytes) ∧
      buildReading e (pay r.data 2) (pay r.data 3) (pay r.data 4) (pay r.data 5) (pay r.data 6) = x := by
  obtain ⟨-, -, -, h⟩ := decodeFrame_eq_ok_iff.mp h
  exact decodeEntry_eq_ok_iff.mp h

end

/-- The reading does not depend on what its entry does not read: `C`, `D`, and `B` of a one-byte entry (R92). -/
theorem buildReading_congr {e : PidDefinition} {a b b' : Byte} (hb : e.bytes = .two → b = b') (p c d c' d' : Byte) :
    buildReading e p a b c d = buildReading e p a b' c' d' := by
  have hraw : rawOperand e.bytes a b = rawOperand e.bytes a b' := by
    cases hbytes : e.bytes with
    | one => rfl
    | two => rw [hb hbytes]
  rw [buildReading, buildReading, decodeFunction, decodeFunction, hraw]

/-- DECODE from step 3 on reads `dlc` under `STRICT` only and the operand bytes its entry takes. -/
theorem decodeEntry_congr {g : Config} {p : Byte} {dlc dlc' : Dlc} {a b b' : Byte}
    (hb : ∀ e, lookup g p = some e → e.bytes = .two → b = b') (hdlc : g.dlcPolicy = .strict → dlc = dlc')
    (c d c' d' : Byte) : decodeEntry g p dlc a b c d = decodeEntry g p dlc' a b' c' d' := by
  cases hl : lookup g p with
  | none => rw [decodeEntry_of_absent hl, decodeEntry_of_absent hl]
  | some e =>
    have hshort : (g.dlcPolicy = .strict ∧ dlc.toNat < 3 + byteCount e.bytes) ↔
        (g.dlcPolicy = .strict ∧ dlc'.toNat < 3 + byteCount e.bytes) :=
      and_congr_right fun hs => by rw [hdlc hs]
    rw [decodeEntry_of_lookup hl, decodeEntry_of_lookup hl, buildReading_congr (hb e hl) p c d c' d']
    exact if_congr hshort rfl rfl

/-- DECODE reads nothing of a request but the window test, `data[1]` to `data[3]`, and where they count `data[4]` and
`dlc` (R139). -/
theorem decodeFrame_congr {g : Config} {r r' : Request}
    (hid : (0x7E8 ≤ r.id.toNat ∧ r.id.toNat ≤ 0x7EF) ↔ (0x7E8 ≤ r'.id.toNat ∧ r'.id.toNat ≤ 0x7EF))
    (h1 : pay r.data 1 = pay r'.data 1) (h2 : pay r.data 2 = pay r'.data 2) (h3 : pay r.data 3 = pay r'.data 3)
    (h4 : ∀ e, lookup g (pay r.data 2) = some e → e.bytes = .two → pay r.data 4 = pay r'.data 4)
    (hdlc : g.dlcPolicy = .strict → r.dlc = r'.dlc) : decodeFrame g r = decodeFrame g r' := by
  by_cases hin : 0x7E8 ≤ r.id.toNat ∧ r.id.toNat ≤ 0x7EF
  · obtain ⟨hlo, hhi⟩ := hin
    obtain ⟨hlo', hhi'⟩ := hid.mp ⟨hlo, hhi⟩
    by_cases hm : pay r.data 1 = 0x41
    · rw [decodeFrame_of_marker_eq hlo hhi hm, decodeFrame_of_marker_eq hlo' hhi' (h1 ▸ hm), ← h2, ← h3]
      exact decodeEntry_congr h4 hdlc ..
    · rw [decodeFrame_of_marker_ne hlo hhi hm, decodeFrame_of_marker_ne hlo' hhi' (h1 ▸ hm)]
  · have hout' := mt hid.mpr hin
    rw [decodeFrame_of_id_outside (by omega), decodeFrame_of_id_outside (by omega)]

/-- Two requests that get the same response get the same step in the same place. -/
theorem step_congr {s : State} {r r' : Request} (h : responseTo s.config r = responseTo s.config r')
    (rest : List Request) : step { s with requests := r :: rest } = step { s with requests := r' :: rest } := by
  rw [step_of_pending (r := r) (rest := rest) rfl, step_of_pending (r := r') (rest := rest) rfl, h]

/-- Settles O37: each operation's response reads only the fields on which the two requests agree. -/
theorem unreadFieldsDoNotMatter : Obligations.UnreadFieldsDoNotMatter := by
  refine ⟨?decode, ?unpack⟩
  case decode =>
    intro s r r' rest ho ho' hid h1 h2 h3 h4 hdlc
    refine step_congr ?_ rest
    rw [responseTo_of_decode ho, responseTo_of_decode ho', decodeFrame_congr hid h1 h2 h3 h4 hdlc]
  case unpack =>
    intro s r r' rest ho ho' hstart h3 h4 h5 h6
    refine step_congr ?_ rest
    simp only [pay] at h3 h4 h5 h6
    rw [responseTo_of_unpack ho, responseTo_of_unpack ho', hstart, h3, h4, h5, h6]

/-- Settles O13: under `LENIENT` two requests that differ in `dlc` get the same DECODE; under `STRICT` an accepted frame
is not short. -/
theorem dlcCountsOnlyUnderStrict : Obligations.DlcCountsOnlyUnderStrict := by
  refine ⟨?lenient, ?strict⟩
  case lenient =>
    intro s r rest d ho hpolicy
    have hdlc {q : Prop} (hstrict : s.config.dlcPolicy = .strict) : q := nomatch hpolicy.symm.trans hstrict
    refine step_congr ?_ rest
    rw [responseTo_of_decode ho, responseTo_of_decode (r := { r with dlc := d }) ho]
    exact congrArg answer (decodeFrame_congr Iff.rfl rfl rfl rfl (fun _ _ _ => rfl) hdlc)
  case strict =>
    intro s r rest e hs ho hl hpolicy hshort
    cases hd : decodeFrame s.config r with
    | error cause => exact step_of_rejected hs ho hd
    | ok x =>
      obtain ⟨e', hl', henough, -⟩ := decodeFrame_ok hd
      obtain rfl : e = e' := Option.some.inj (hl.symm.trans hl')
      exact absurd ⟨hpolicy, hshort⟩ henough

/-- A response to a DECODE has `found = 1` exactly when the DECODE accepts. -/
theorem found_answer_iff {y : Except RejectCause Reading} : found (answer y) = some true ↔ ∃ x, y = .ok x := by
  cases y <;> simp [answer, reject, found]

/-- Settles O15: acceptance is the conjunction of the four tests, the window as a mask. -/
theorem acceptanceCharacterised : Obligations.AcceptanceCharacterised := by
  intro s r rest hs ho
  refine ⟨_, step_of_decodeRequest hs ho, ?_⟩
  rw [found_answer_iff, ← idInWindow_iff_mask, idInWindow_iff, and_assoc]
  simp only [decodeFrame_eq_ok_iff, decodeEntry_eq_ok_iff, exists_and_left, not_and, not_lt]
  refine and_congr_right fun _ => and_congr_right fun _ => and_congr_right fun _ => ?_
  constructor
  · rintro ⟨x, e, hl, henough, -⟩
    exact ⟨e, hl, henough⟩
  · rintro ⟨e, hl, henough⟩
    exact ⟨_, e, hl, henough, rfl⟩

/-- The byte count of an operand size, as the pseudocode chooses it. -/
theorem byteCount_eq_ite (n : OperandBytes) : byteCount n = if n = .one then 1 else 2 := by
  cases n <;> rfl

/-- The operand of an operand size in the integers, as the pseudocode chooses it. -/
theorem rawOperand_eq_ite (n : OperandBytes) (a b : Byte) :
    (rawOperand n a b : Int) = if n = .one then (a.toNat : Int) else 256 * a.toNat + b.toNat := by
  cases n with
  | one => rfl
  | two =>
    rw [rawOperand]
    push_cast
    rfl

/-- A step with a DECODE request, by the form of its response. -/
theorem step_of_answer {s : State} {r : Request} {rest : List Request} {x : Option Reading}
    (hs : s.requests = r :: rest) (ho : r.op = .decode) (h : answer (decodeFrame s.config r) = .decode x) :
    step s = .next ⟨s.config, rest, s.responses ++ [.decode x]⟩ := by
  rw [step_of_decodeRequest hs ho, h]
  rfl

/-- Settles O14: the tests of DECODE in their order, and the reading in the form of the pseudocode. -/
theorem decodeStepMeetsPseudocode : Obligations.DecodeStepMeetsPseudocode := by
  intro s r rest hs ho
  refine step_of_answer hs ho ?_
  by_cases hid : r.id.toNat < 0x7E8 ∨ 0x7EF < r.id.toNat
  · rw [decodeFrame_of_id_outside hid, if_pos hid]
    rfl
  · have hlo : 0x7E8 ≤ r.id.toNat := by omega
    have hhi : r.id.toNat ≤ 0x7EF := by omega
    rw [if_neg hid]
    by_cases hm : r.data.b1 = 0x41
    · rw [decodeFrame_of_marker_eq hlo hhi hm, if_neg (not_not_intro hm)]
      simp only [pay]
      cases hl : lookup s.config r.data.b2 with
      | none =>
        rw [decodeEntry_of_absent hl]
        rfl
      | some e =>
        simp only [decodeEntry_of_lookup hl, ← byteCount_eq_ite, ← rawOperand_eq_ite]
        by_cases hdlc : s.config.dlcPolicy = .strict ∧ r.dlc.toNat < 3 + byteCount e.bytes
        · simp only [if_pos hdlc]
          rfl
        · simp only [if_neg hdlc]
          rfl
    · rw [decodeFrame_of_marker_ne hlo hhi hm, if_pos hm]
      rfl

/-- The bounds of R94 on an entry: `ADD`, the formula at the greatest operand, and `DEN`. -/
def InDefaultRange (e : PidDefinition) : Prop :=
  -12800 ≤ e.add ∧ numerator e (rawMax e.bytes) ≤ 65535 ∧ 1 ≤ e.den ∧ e.den ≤ 32768

/-- Every row of the default table and of bank 2 is in the range of R94. -/
theorem defaultRows_inRange : ∀ c ∈ registryDefault ++ registryBank2, InDefaultRange c.2 := by
  unfold InDefaultRange
  decide

/-- The formula lies between `ADD` and its value at the greatest operand. -/
theorem numerator_bounds {e : PidDefinition} (he : e.wellFormed = true) (a b : Byte) :
    e.add ≤ numerator e (rawOperand e.bytes a b) ∧
      numerator e (rawOperand e.bytes a b) ≤ numerator e (rawMax e.bytes) := by
  have hmono := (numerator_strictMono he).monotone
  refine ⟨?_, hmono (rawOperand_le e.bytes a b)⟩
  calc e.add = numerator e 0 := by rw [numerator, Nat.cast_zero, mul_zero, zero_add]
    _ ≤ numerator e (rawOperand e.bytes a b) := hmono (Nat.zero_le _)

/-- With the default table, an entry that is found is admitted and in the range of R94. -/
theorem lookup_default_inRange {c : Config} (hr : c.registry = registryDefault) {p : Byte} {e : PidDefinition}
    (hl : lookup c p = some e) : e.wellFormed = true ∧ InDefaultRange e := by
  have hc : c.wellFormed = true := by
    rw [Config.wellFormed, hr]
    exact registryDefault_wellFormed
  refine ⟨lookup_wellFormed hc hl, defaultRows_inRange (p, e) (List.mem_append.mpr ?_)⟩
  rcases lookup_eq_some_iff.mp hl with hs | ⟨-, -, hb⟩
  · exact .inl (mem_of_slot (hr ▸ hs))
  · exact .inr (mem_of_slot hb)

/-- A result in the responses of a step that it was not in before is that of an accepted DECODE. -/
theorem decodeFrame_of_step {s t : State} {x : Reading} (h : step s = .next t)
    (hx : t.responses = s.responses ++ [.decode (some x)]) : ∃ r, decodeFrame s.config r = .ok x := by
  rcases step_next_cases h with ⟨-, rfl⟩ | ⟨r, rest, -, rfl⟩
  · simp at hx
  · refine ⟨r, ?_⟩
    have hresp : responseTo s.config r = .decode (some x) := List.singleton_inj.mp (List.append_cancel_left hx)
    cases ho : r.op with
    | unpack =>
      rw [responseTo_of_unpack ho] at hresp
      cases hresp
    | decode =>
      rw [responseTo_of_decode ho] at hresp
      cases hd : decodeFrame s.config r with
      | error cause =>
        rw [hd] at hresp
        cases hresp
      | ok y =>
        rw [hd] at hresp
        cases hresp
        rfl

/-- Settles O25: the formula is monotone, so its bounds at the two ends hold at every operand. -/
theorem defaultRegistryNumRange : Obligations.DefaultRegistryNumRange := by
  intro s t x hr h hx
  obtain ⟨r, hd⟩ := decodeFrame_of_step h hx
  obtain ⟨e, hl, -, rfl⟩ := decodeFrame_ok hd
  obtain ⟨he, hlow, hhigh, hden⟩ := lookup_default_inRange hr hl
  obtain ⟨hge, hle⟩ := numerator_bounds he (pay r.data 3) (pay r.data 4)
  rw [buildReading_num_toInt he, buildReading_den_toNat he]
  exact ⟨hlow.trans hge, hle.trans hhigh, hden⟩

end Sys2Proof.Proofs
end

section
/-! PROOFS. The laws of UNPACK (42_unpack_bitmask.md section 3): the inverse of `PackMask`, the next block, the elements
above `0xFF`, and the configuration. -/

namespace Sys2Proof.Proofs

open Sys2Proof.Machine

/-- The mask bytes of the emulator's payload make its mask again (R158). -/
theorem assembleMask_extract (m : BitVec 32) :
    assembleMask (m.extractLsb' 24 8) (m.extractLsb' 16 8) (m.extractLsb' 8 8) (m.extractLsb' 0 8) = m := by
  rw [assembleMask, append_fields m 16 8 8, append_fields m 8 16 8]
  exact (append_fields m 0 24 8).trans BitVec.extractLsb'_eq_self

/-- A step with an UNPACK request that carries the payload of mask `m`. -/
theorem step_of_maskPayload {s : State} {r : Request} {rest : List Request} {base : Byte} {m : BitVec 32}
    (hs : s.requests = r :: rest) (ho : r.op = .unpack) (hstart : r.startPid = base)
    (hdata : r.data = maskPayload base m) :
    step s = .next ⟨s.config, rest, s.responses ++ [unpackResponse base m]⟩ := by
  rw [step_of_unpackRequest hs ho, hstart, hdata, maskPayload, assembleMask_extract]
  rfl

theorem inBlock_iff {base : Byte} {q : PidElement} :
    inBlock base q = true ↔ base.toNat + 1 ≤ q.toNat ∧ q.toNat ≤ base.toNat + 32 := by
  simp only [inBlock, Bool.and_eq_true, decide_eq_true_eq]

theorem packMask_of_inBlock {base : Byte} {qs : List PidElement}
    (h : ∀ q ∈ qs, base.toNat + 1 ≤ q.toNat ∧ q.toNat ≤ base.toNat + 32) :
    packMask qs base = .next (maskOf qs base) :=
  if_pos (List.all_eq_true.mpr fun q hq => inBlock_iff.mpr (h q hq))

theorem packMask_of_outside {base : Byte} {qs : List PidElement} {q : PidElement} (hq : q ∈ qs)
    (hout : q.toNat < base.toNat + 1 ∨ base.toNat + 32 < q.toNat) : packMask qs base = .refused .pidOutsideWindow := by
  refine if_neg fun hall => ?_
  obtain ⟨hlo, hhi⟩ := inBlock_iff.mp (List.all_eq_true.mp hall q hq)
  omega

/-- Bit `j` of the mask of a set says whether the element of position `31 - j` is in the set. -/
theorem maskOf_getLsbD (qs : List PidElement) (base : Byte) {j : Nat} (hj : j < 32) :
    (maskOf qs base).getLsbD j = decide (elementAt base (31 - j) ∈ qs) := by
  rw [maskOf, BitVec.getLsbD_ofFnLE, dif_pos hj]

/-- A position is set in the mask of a set exactly when its element is in the set. -/
theorem positionSet_maskOf (qs : List PidElement) (base : Byte) {i : Nat} (hi : i < 32) :
    positionSet (maskOf qs base) i = true ↔ elementAt base i ∈ qs := by
  rw [positionSet, maskOf_getLsbD qs base (by omega), decide_eq_true_iff, Nat.sub_sub_self (by omega)]

/-- Positions are told apart by their elements. -/
theorem elementAt_inj {base : Byte} {i j : Nat} (hi : i < 32) (hj : j < 32) (h : elementAt base i = elementAt base j) :
    i = j := by
  have hval := congrArg BitVec.toNat h
  rw [elementAt_toNat base hi, elementAt_toNat base hj] at hval
  omega

/-- An element of the window is the element of a position. -/
theorem exists_elementAt {base : Byte} {q : PidElement}
    (hq : base.toNat + 1 ≤ q.toNat ∧ q.toNat ≤ base.toNat + 32) : ∃ i, i < 32 ∧ elementAt base i = q := by
  obtain ⟨hlo, hhi⟩ := hq
  have hi : q.toNat - base.toNat - 1 < 32 := by omega
  refine ⟨q.toNat - base.toNat - 1, hi, BitVec.eq_of_toNat_eq ?_⟩
  rw [elementAt_toNat base hi]
  omega

/-- The elements of the mask of a set inside the window are those of the set. -/
theorem mem_elements_maskOf {base : Byte} {qs : List PidElement}
    (h : ∀ q ∈ qs, base.toNat + 1 ≤ q.toNat ∧ q.toNat ≤ base.toNat + 32) {x : PidElement} :
    x ∈ elements base (maskOf qs base) ↔ x ∈ qs := by
  rw [mem_elements]
  constructor
  · rintro ⟨i, hi, hset, rfl⟩
    exact (positionSet_maskOf qs base hi).mp hset
  · intro hx
    obtain ⟨i, hi, rfl⟩ := exists_elementAt (h x hx)
    exact ⟨i, hi, (positionSet_maskOf qs base hi).mpr hx, rfl⟩

/-- UNPACK gives back a rising list inside the window: two rising lists with the same members are equal. -/
theorem elements_maskOf {base : Byte} {qs : List PidElement} (hrise : qs.Pairwise (fun x y => x.toNat < y.toNat))
    (h : ∀ q ∈ qs, base.toNat + 1 ≤ q.toNat ∧ q.toNat ≤ base.toNat + 32) : elements base (maskOf qs base) = qs :=
  List.Pairwise.eq_of_mem_iff (r := (· < ·)) (elements_rising base _) hrise fun _ => mem_elements_maskOf h

/-- A position's element is in the list of a mask exactly when the position is set. -/
theorem elementAt_mem_elements {base : Byte} {m : BitVec 32} {i : Nat} (hi : i < 32) :
    elementAt base i ∈ elements base m ↔ positionSet m i = true := by
  rw [mem_elements]
  constructor
  · rintro ⟨j, hj, hset, heq⟩
    rwa [← elementAt_inj hj hi heq]
  · exact fun hset => ⟨i, hi, hset, rfl⟩

/-- `PackMask` gives back the mask of a list of elements. -/
theorem maskOf_elements (base : Byte) (m : BitVec 32) : maskOf (elements base m) base = m := by
  refine BitVec.eq_of_getLsbD_eq fun j hj => ?_
  have hpos : positionSet m (31 - j) = m.getLsbD j := by rw [positionSet, Nat.sub_sub_self (by omega)]
  rw [maskOf_getLsbD _ base hj, ← hpos]
  simp only [elementAt_mem_elements (show 31 - j < 32 by omega), Bool.decide_eq_true]

/-- Settles O30: each direction is the identity on its side, and a PID outside the window is refused. -/
theorem packMaskRoundTrip : Obligations.PackMaskRoundTrip := by
  refine ⟨?unpackOfPack, ?packOfUnpack, fun _ _ _ => packMask_of_outside⟩
  case unpackOfPack =>
    intro base qs s r rest hrise hwindow
    refine ⟨maskOf qs base, packMask_of_inBlock hwindow, fun hs ho hstart hdata =>
      ⟨BitVec.ofNat 6 qs.length, ?_⟩⟩
    rw [step_of_maskPayload hs ho hstart hdata, unpackResponse, elements_maskOf hrise hwindow]
  case packOfUnpack =>
    intro base m s r rest hs ho hstart hdata
    refine ⟨_, _, step_of_maskPayload hs ho hstart hdata, ?_⟩
    rw [packMask_of_inBlock fun _ => elements_window, maskOf_elements]

/-- Settles O31: the element of the last position, 31, which is bit 0 of mask byte 3. -/
theorem lastBitStandsForNextBlock : Obligations.LastBitStandsForNextBlock := by
  intro f s
  refine ⟨_, _, exec_unpack f s, ?_⟩
  obtain ⟨-, -, -, hlast⟩ := assembleMask_position f.m0 f.m1 f.m2 f.m3 (show 7 < 8 by decide)
  rw [← hlast]
  constructor
  · rintro ⟨x, hx, hval⟩
    obtain ⟨i, hi, hbit, hpos⟩ := mem_elements_iff.mp hx
    obtain rfl : i = 31 := by omega
    exact hbit
  · intro hbit
    exact ⟨elementAt f.startPid 31, mem_elements.mpr ⟨31, by decide, hbit, rfl⟩, elementAt_toNat _ (by decide)⟩

/-- An element exceeds `0xFF` exactly where a set position does not fit (R156). -/
theorem exists_element_above_iff {start : Byte} {m : BitVec 32} : (∃ x ∈ elements start m, 0xFF < x.toNat) ↔
    ∃ i, i < 32 ∧ 255 ≤ start.toNat + i ∧ m.getLsbD (31 - i) = true := by
  constructor
  · rintro ⟨x, hx, habove⟩
    obtain ⟨i, hi, hbit, hval⟩ := mem_elements_iff.mp hx
    exact ⟨i, hi, by omega, hbit⟩
  · rintro ⟨i, hi, habove, hbit⟩
    refine ⟨elementAt start i, mem_elements.mpr ⟨i, hi, hbit, rfl⟩, ?_⟩
    rw [elementAt_toNat start hi]
    omega

/-- Settles O32: the window of the block bounds the elements, and a position is at most 31. -/
theorem elementsAboveFFNeedAHighBlock : Obligations.ElementsAboveFFNeedAHighBlock := by
  intro f s
  refine ⟨_, _, exec_unpack f s, fun x hx => ?range, exists_element_above_iff, ?high⟩
  case range =>
    have hstart := f.startPid.isLt
    obtain ⟨hlo, hhi⟩ := elements_window hx
    omega
  case high =>
    rintro ⟨x, hx, habove⟩
    obtain ⟨-, hhi⟩ := elements_window hx
    omega

/-- Settles O33: the delivered response does not mention the configuration. -/
theorem unpackDoesNotConsultRegistry : Obligations.UnpackDoesNotConsultRegistry := by
  intro f s t g h
  obtain rfl : s.deliver (unpackResponse f.startPid (assembleMask f.m0 f.m1 f.m2 f.m3)) = t :=
    Host.Outcome.next.inj ((exec_unpack f s).symm.trans h)
  exact exec_unpack f { s with config := g }

end Sys2Proof.Proofs
end
